-- ==== Sys2Proof/Word.lean ====
section
/-! DEFINITION. The two bit widths of the hardware: 32-bit words and bytes (00_scope.md R13, R15).
`+32`, `-32` and `xor` of R14 are `+`, `-` and `^^^` on `Word`, which wrap modulo 2^32 and record nothing.
-/

namespace Sys2Proof

/-- A 32-bit word (R13): register contents, subkeys, the words of a block. -/
abbrev Word := BitVec 32

/-- A byte of MEM (R15). -/
abbrev Byte := BitVec 8

end Sys2Proof
end

