-- ==== Sys2Proof/Syntax.lean ====
section
/-! DEFINITION. The commands of CORE (30_encoding.md R78: one constructor per row of the opcode table), the
registers the host sees (10_state.md R22), the host actions (30_encoding.md R88) with the platform's reset
(70_reset_and_hazards.md R220), and the pseudo-commands (30_encoding.md R90).
-/

namespace Sys2Proof

/-- The five commands (R78). Operands are no part of a command word (R77). -/
inductive Instr where
  /-- KSE.ENC: key setup that makes an encryption instance (R79, R100). -/
  | kseEnc
  /-- KSE.DEC: key setup that makes a decryption instance (R80, R101). -/
  | kseDec
  /-- KCLR: destroy the instance (R81, R102). -/
  | kclr
  /-- BLK, and BLK.XA when `xa` is set: one block (R82, R144). -/
  | blk (xa : Bool)
  /-- PCL with the flags XOR-before, XOR-after and auxiliary-constant (R83, R163). -/
  | pcl (xb xa ac : Bool)
deriving DecidableEq, Repr

/-- The six operand registers (10_state.md R21). -/
inductive Operand where
  | kptr
  | klen
  | iptr
  | aptr
  | optr
  | nblk
deriving DecidableEq, Repr

/-- The nine registers of the register space (10_state.md R22). -/
inductive Reg where
  | cap
  | cmd
  | status
  | operand (o : Operand)
deriving DecidableEq, Repr

/-- What the outside does to CORE between two commands: the host actions of R88, a register access carrying the
offset and the width in bits it is made with (R41 gives a meaning to some of these only), and the platform's
reset (R220). -/
inductive Action where
  /-- `WR`: a register write of `width` bits at `offset`. -/
  | regWrite (offset width : Nat) (value : Word)
  /-- `RD`: a register read of `width` bits at `offset`. -/
  | regRead (offset width : Nat)
  /-- `MEMW`: the bytes go to MEM, the first at `addr`. -/
  | memWrite (addr : Nat) (bytes : List Byte)
  /-- `MEMR`: `n` bytes of MEM from `addr` on. -/
  | memRead (addr n : Nat)
  /-- The platform resets CORE (R220): power-on or a reset input, no action of the host. -/
  | platformReset
deriving DecidableEq, Repr

/-- The pseudo-commands of R90. -/
inductive Pseudo where
  /-- `KEY.ENC kptr, klen`. -/
  | keyEnc (kptr klen : Word)
  /-- `KEY.DEC kptr, klen`. -/
  | keyDec (kptr klen : Word)
  /-- `XFORM iptr, optr`. -/
  | xform (iptr optr : Word)
  /-- `XFORM.XA iptr, aptr, optr`. -/
  | xformXa (iptr aptr optr : Word)
  /-- `BULK n, iptr, optr`. -/
  | bulk (n iptr optr : Word)
  /-- `BULK.<flags> n, iptr, aptr, optr`, for a non-empty list of flags. -/
  | bulkFlags (xb xa ac : Bool) (n iptr aptr optr : Word)
deriving DecidableEq, Repr

end Sys2Proof
end

