-- ==== Sys2Proof/Config.lean ====
section
/-! DEFINITION. What an implementation of CORE fixes: the parameters AW and W (00_scope.md R11, R10), the shape of
the record TABLES (R9), and the values the spec leaves free. The default VALUE of TABLES stands in
Sys2Proof/Machine/Tables.lean.
-/

namespace Sys2Proof

/-- The four words of a block (41_round_engine.md R130). -/
structure Words4 where
  x0 : Word
  x1 : Word
  x2 : Word
  x3 : Word
deriving DecidableEq, Repr, Inhabited

/-- The six subkeys of one round (40_key_schedule.md R106, 41_round_engine.md R132). -/
structure SubKeys where
  k0 : Word
  k1 : Word
  k2 : Word
  k3 : Word
  k4 : Word
  k5 : Word
deriving DecidableEq, Repr, Inhabited

/-- The configuration record TABLES (00_scope.md R9). The functions are total in their arguments alone, which is
P1 and P3 of 41_round_engine.md R141; `keyStep klen r t` gives the updated key state and the six subkeys of round
`r`. The key state is the list of its `klen / 4` words. -/
structure Tables where
  delta : List Word
  keyStep : Nat → Nat → List Word → List Word × SubKeys
  roundF : Words4 → SubKeys → Words4
  roundI : Words4 → SubKeys → Words4

/-- P2 of 41_round_engine.md R141: the inverse round inverts the forward round, and conversely. -/
def Tables.RoundsInvert (t : Tables) : Prop :=
  (∀ x k, t.roundI (t.roundF x k) k = x) ∧ (∀ y k, t.roundF (t.roundI y k) k = y)

/-- The open parameters of a CORE that are numbers. The machine takes them from its state, where no action changes
them (log entries 7 and 8). -/
structure Params where
  /-- AW, the number of address bits of MEM (R11). -/
  addressWidth : Nat
  /-- W, the batch width (R10). -/
  laneCount : Nat
deriving DecidableEq, Repr

/-- The values the spec allows: `1 <= AW <= 32` (R11), `W >= 1` (R10). -/
abbrev Params.Legal (p : Params) : Prop := 1 ≤ p.addressWidth ∧ p.addressWidth ≤ 32 ∧ 1 ≤ p.laneCount

namespace Config

/-- The spec's defaults, AW = 32 (R11) and W = 4 (R10). -/
def defaultParams : Params := { addressWidth := 32, laneCount := 4 }

/-- The words the spec leaves unspecified after a command or a reset (93_implementation_defined.md U11, U13, U14):
the `index`-th word of the `draw`-th time the machine leaves something unspecified. It has no body: nothing is
known of its values (log entry 5, safe). -/
opaque freeWord (draw index : Nat) : Word

/-- The contents of MEM after a platform reset, which the spec leaves to the platform (10_state.md R38, R39):
the bytes written over an empty memory at the `draw`-th reset. It has no body (log entry 12, safe). -/
opaque freeCells (draw : Nat) : List (Nat × Byte)

end Config

end Sys2Proof
end

