-- ==== Sys2Proof/WellFormed.lean ====
section
/-! DEFINITION. Which terms of Syntax.lean are well-formed.

A command has no operand field (30_encoding.md R77) and every combination of its flags is legal (R82, R83), so
every term of `Instr` is well-formed. The checks that can fail are those of the host's side: a register access
(10_state.md R41), a MEM access (20_memory.md R56), the flags of a pseudo-command (30_encoding.md R90).
-/

namespace Sys2Proof

/-- R82, R83: no constructor has an operand that could be out of range. -/
def Instr.wf : Instr → Bool
  | .kseEnc => true
  | .kseDec => true
  | .kclr => true
  | .blk _ => true
  | .pcl _ _ _ => true

/-- R41: one aligned 32-bit access, at an offset that holds a register (R22: 0x00 to 0x20 in steps of 4). -/
def registerAccessWf (offset width : Nat) : Bool :=
  width == 32 && offset % 4 == 0 && decide (offset ≤ 0x20)

/-- An action the spec gives a meaning to in every state, or at least in some: its register access is one of R41,
its MEM access lies inside a MEM of `2^addressWidth` bytes (R50, R56). -/
def Action.wf (addressWidth : Nat) : Action → Bool
  | .regWrite offset width _ => registerAccessWf offset width
  | .regRead offset width => registerAccessWf offset width
  | .memWrite addr bytes => decide (addr + bytes.length ≤ 2 ^ addressWidth)
  | .memRead addr n => decide (addr + n ≤ 2 ^ addressWidth)
  | .platformReset => true

/-- R90: `BULK.<flags>` takes a non-empty list of flags; without a flag it is `BULK`. -/
def Pseudo.wf : Pseudo → Bool
  | .keyEnc _ _ => true
  | .keyDec _ _ => true
  | .xform _ _ => true
  | .xformXa _ _ _ => true
  | .bulk _ _ _ => true
  | .bulkFlags xb xa ac _ _ _ _ => xb || xa || ac

end Sys2Proof
end

