-- ==== Sys2Proof/Decode.lean ====
section
/-! DEFINITION. The decoder of a command word (30_encoding.md R91), the encoder (R79 to R83), the opcode map as
masks and matches (R78), the mnemonics (R89) and the expansions of the pseudo-commands (R90). Decoding never
depends on state (R87).
-/

namespace Sys2Proof

/-- The decoder's verdict on a word (R84, R91): a command, or `Invalid`. -/
inductive Verdict where
  | command (i : Instr)
  | invalid
deriving DecidableEq, Repr

/-- The decoder, field by field as R91 writes it. -/
def decode (w : Word) : Verdict :=
  let op := w.extractLsb' 0 4
  let d := w.getLsbD 4
  let xb := w.getLsbD 8
  let xa := w.getLsbD 9
  let ac := w.getLsbD 10
  let f3 := w.getLsbD 11
  if w.extractLsb' 12 20 ≠ 0#20 ∨ w.extractLsb' 5 3 ≠ 0#3 ∨ f3 = true then .invalid
  else if op = 1#4 ∧ xb = false ∧ xa = false ∧ ac = false then
    .command (if d = false then .kseEnc else .kseDec)
  else if op = 2#4 ∧ d = false ∧ xb = false ∧ ac = false then .command (.blk xa)
  else if op = 3#4 ∧ d = false then .command (.pcl xb xa ac)
  else if op = 4#4 ∧ d = false ∧ xb = false ∧ xa = false ∧ ac = false then .command .kclr
  else .invalid

/-- A flag's contribution to a command word. -/
def flagBits (flag : Bool) (bits : Word) : Word := if flag then bits else 0#32

/-- The command word of a command (R79 to R83). -/
def encode : Instr → Word
  | .kseEnc => 0x00000001#32
  | .kseDec => 0x00000011#32
  | .kclr => 0x00000004#32
  | .blk xa => 0x00000002#32 + flagBits xa 0x200#32
  | .pcl xb xa ac => 0x00000003#32 + flagBits xb 0x100#32 + flagBits xa 0x200#32 + flagBits ac 0x400#32

/-- A row of the opcode map (R78): a word selects it when `w &&& mask = value`, and its free bits are the flags. -/
structure OpcodeRow where
  mask : Word
  value : Word
  command : Word → Instr

/-- The complete map (R78). -/
def opcodeRows : List OpcodeRow :=
  [ ⟨0xFFFFFFFF#32, 0x00000001#32, fun _ => .kseEnc⟩,
    ⟨0xFFFFFFFF#32, 0x00000011#32, fun _ => .kseDec⟩,
    ⟨0xFFFFFDFF#32, 0x00000002#32, fun w => .blk (w.getLsbD 9)⟩,
    ⟨0xFFFFF8FF#32, 0x00000003#32, fun w => .pcl (w.getLsbD 8) (w.getLsbD 9) (w.getLsbD 10)⟩,
    ⟨0xFFFFFFFF#32, 0x00000004#32, fun _ => .kclr⟩ ]

/-- The row a word selects. -/
def OpcodeRow.selects (row : OpcodeRow) (w : Word) : Bool := w &&& row.mask == row.value

/-- The map's verdict on a word: the first row it selects, `Invalid` where there is none (R78, R84). -/
def tableDecode (w : Word) : Verdict :=
  match opcodeRows.find? (fun row => row.selects w) with
  | some row => .command (row.command w)
  | none => .invalid

/-- What the decoder reads from an instruction of `nbits` bits `w`, every bit above them 0. There is one command
length, 32 bits (R75): a longer word with a bit above them is no command. -/
def decodeTableWord (nbits w : Nat) : Option Instr :=
  if w % 2 ^ nbits < 2 ^ 32 then
    match decode (BitVec.ofNat 32 (w % 2 ^ nbits)) with
    | .command i => some i
    | .invalid => none
  else none

/-- Every command, each flag at each value (R83, R89). -/
def allCommands : List Instr :=
  [.kseEnc, .kseDec, .kclr, .blk false, .blk true,
   .pcl false false false, .pcl true false false, .pcl false true false, .pcl true true false,
   .pcl false false true, .pcl true false true, .pcl false true true, .pcl true true true]

/-- The mnemonic of a command (R89): suffixes in the order `.XB`, `.XA`, `.AC`, an absent one being 0. -/
def Instr.mnemonic : Instr → String
  | .kseEnc => "KSE.ENC"
  | .kseDec => "KSE.DEC"
  | .kclr => "KCLR"
  | .blk xa => "BLK" ++ (if xa then ".XA" else "")
  | .pcl xb xa ac =>
    "PCL" ++ (if xb then ".XB" else "") ++ (if xa then ".XA" else "") ++ (if ac then ".AC" else "")

/-- The word a mnemonic stands for (R89). -/
def assemble (name : String) : Option Word :=
  (allCommands.find? (fun i => i.mnemonic == name)).map encode

/-- The offset of a register (10_state.md R22). -/
def Reg.offset : Reg → Nat
  | .cap => 0x00
  | .cmd => 0x04
  | .status => 0x08
  | .operand .kptr => 0x0C
  | .operand .klen => 0x10
  | .operand .iptr => 0x14
  | .operand .aptr => 0x18
  | .operand .optr => 0x1C
  | .operand .nblk => 0x20

/-- The register at an offset (10_state.md R22): 0x24 and above, and offsets that are no multiple of 4, hold none. -/
def regAt (offset : Nat) : Option Reg :=
  match offset with
  | 0x00 => some .cap
  | 0x04 => some .cmd
  | 0x08 => some .status
  | 0x0C => some (.operand .kptr)
  | 0x10 => some (.operand .klen)
  | 0x14 => some (.operand .iptr)
  | 0x18 => some (.operand .aptr)
  | 0x1C => some (.operand .optr)
  | 0x20 => some (.operand .nblk)
  | _ => none

/-- `WR <reg>, <value>` (R88). -/
def Action.wr (r : Reg) (value : Word) : Action := .regWrite r.offset 32 value

/-- `RD <reg>` (R88). -/
def Action.rd (r : Reg) : Action := .regRead r.offset 32

/-- A command's mnemonic alone on a line: `WR CMD, <its word>` (R89). -/
def Action.issue (i : Instr) : Action := .wr .cmd (encode i)

/-- The expansion of a pseudo-command (R90). -/
def Pseudo.expand : Pseudo → List Action
  | .keyEnc kptr klen => [.wr (.operand .kptr) kptr, .wr (.operand .klen) klen, .issue .kseEnc]
  | .keyDec kptr klen => [.wr (.operand .kptr) kptr, .wr (.operand .klen) klen, .issue .kseDec]
  | .xform iptr optr => [.wr (.operand .iptr) iptr, .wr (.operand .optr) optr, .issue (.blk false)]
  | .xformXa iptr aptr optr =>
    [.wr (.operand .iptr) iptr, .wr (.operand .aptr) aptr, .wr (.operand .optr) optr, .issue (.blk true)]
  | .bulk n iptr optr =>
    [.wr (.operand .nblk) n, .wr (.operand .iptr) iptr, .wr (.operand .optr) optr,
     .issue (.pcl false false false)]
  | .bulkFlags xb xa ac n iptr aptr optr =>
    [.wr (.operand .nblk) n, .wr (.operand .iptr) iptr, .wr (.operand .aptr) aptr,
     .wr (.operand .optr) optr, .issue (.pcl xb xa ac)]

end Sys2Proof
end

