-- ==== Sys2Proof/Machine/State.lean ====
section
/-! DEFINITION. The state of CORE as plain data (10_state.md R20), the reasons a step can stop, and the state after
reset (R39).
-/

namespace Sys2Proof.Machine

/-- An operand register (10_state.md R21): its 32 bits, and whether it has been written since reset, which decides
whether a command may take it (R39, 60_exceptions.md R197 item (h)). The value at reset is a DESIGN CHOICE (log
entry 1). -/
structure OperandReg where
  value : Word
  written : Bool
deriving DecidableEq, Repr

/-- The direction of an instance, the bit DIR (R30). -/
inductive Direction where
  /-- DIR = 0: the instance encrypts. -/
  | encrypt
  /-- DIR = 1: the instance decrypts. -/
  | decrypt
deriving DecidableEq, Repr

/-- The transient working state (R20 item (d), R32 to R34, R36), unspecified outside a command. The spec gives the
scratch buffer no size; four words is a DESIGN CHOICE (log entry 3). -/
structure Transient where
  /-- T[0..7], the key-state words (R32). -/
  t : Vector Word 8
  /-- X[0..3] of every lane (R33): W entries. -/
  x : List Words4
  /-- The scratch buffer (R34). -/
  scratch : Vector Word 4
  /-- The round index (R36). -/
  r : BitVec 6
  /-- The block index (R36). -/
  i : BitVec 32
deriving DecidableEq, Repr

/-- Why a part of MEM is not plain memory (20_memory.md R61, R62). -/
inductive NonPlainKind where
  /-- A device's registers. -/
  | device
  /-- No storage behind the addresses. -/
  | noStorage
deriving DecidableEq, Repr

/-- A part of MEM that the platform does not back with plain memory: the addresses from `base` up to, and not with,
`base + size`. -/
structure NonPlain where
  base : Nat
  size : Nat
  kind : NonPlainKind
deriving DecidableEq, Repr

/-- MEM (R38): the bytes that differ from what an unlisted address reads as, by strictly rising address. -/
abbrev Memory := List Host.Cell

/-- What an unlisted address of MEM reads as. DESIGN CHOICE (log entry 4, unsafe): 0. The spec leaves MEM after
reset to the platform (R38); the programs of 95_test_vectors.md section 6 start from a MEM of zeros. -/
def unlistedByte : Byte := 0#8

/-- What the last action gave the host (30_encoding.md R88: a read "yields its value"). -/
inductive Yield where
  | nothing
  | word (w : Word)
  | bytes (b : List Byte)
deriving DecidableEq, Repr

/-- The state: every element of R20, and after `mem` the fields that are the model's own. -/
structure State where
  /-- KPTR (R21). -/
  kptr : OperandReg
  /-- KLEN (R21). -/
  klen : OperandReg
  /-- IPTR (R21). -/
  iptr : OperandReg
  /-- APTR (R21). -/
  aptr : OperandReg
  /-- OPTR (R21). -/
  optr : OperandReg
  /-- NBLK (R21). -/
  nblk : OperandReg
  /-- KEY_VALID (R31). -/
  keyValid : Bool
  /-- DIR (R30). -/
  dir : Direction
  /-- NR (R29). -/
  nr : BitVec 6
  /-- ERR (R26). -/
  err : BitVec 4
  /-- RK[0..191] (R27). -/
  rk : Vector Word 192
  /-- T, X, scratch buffer, r, i (R20 item (d)). -/
  transient : Transient
  /-- MEM (R38). -/
  mem : Memory
  /-- The parameters AW and W of this CORE (00_scope.md R10, R11), which no action changes (log entries 7, 8). -/
  params : Params
  /-- The model's own: the parts of MEM that are not plain memory, fixed by the platform (log entry 11). -/
  platform : List NonPlain
  /-- The model's own: the actions still to come (R40, log entry 9). -/
  script : List Action
  /-- The model's own: what the last action yielded (log entry 10). -/
  yielded : Yield
  /-- The model's own: the counter free values are drawn with (log entry 5). -/
  draws : Nat
deriving DecidableEq, Repr

/-- Why the machine stops with a fault. CORE itself never faults (93_implementation_defined.md Part 1). -/
inductive Fault where
  /-- A MEMW or MEMR of the host touches an address that MEM does not have, `addr + n > 2^AW` (10_state.md R38,
  log entry 15). Raised by the host's MEM actions only. Safe: the model stops. -/
  | noSuchAddress (addr n : Nat)
deriving DecidableEq, Repr

/-- Why a step is refused: the precondition violations of 60_exceptions.md R197, to which the spec gives no meaning
(R198). Each is safe: the model stops where real hardware would do something the spec declines to describe. -/
inductive Refusal where
  /-- An instruction without a meaning in this model. Raised by exec's refused arms only; there is none. Safe. -/
  | notModelled (mnemonic : String)
  /-- R197 (a): a word whose decode is `Invalid` was written to CMD. Raised by the write of CMD. Safe. -/
  | invalidCommand (w : Word)
  /-- R197 (b): BLK or PCL while KEY_VALID = 0. Raised by BLK and PCL. Safe. -/
  | noInstance
  /-- R197 (d), and (c) as far as it becomes (d): a region does not fit in MEM. Raised by key setups, BLK and PCL,
  with the region's first address and its size. Safe. -/
  | regionOutsideMem (base size : Nat)
  /-- R197 (e): a PCL that is not independent. Raised by PCL. Safe. -/
  | notIndependent
  /-- R197 (f), and (c) as far as it becomes (f): a region touches a device or addresses with no storage. Raised by
  key setups, BLK and PCL. Safe. -/
  | regionNotPlain (base size : Nat)
  /-- R197 (h): a command takes, or the host reads, an operand register never written since reset
  (93_implementation_defined.md U11: refuse). Raised by key setups, BLK, PCL and register reads. Safe. -/
  | operandNotWritten (o : Operand)
  /-- R197 (i): a register access that is not one aligned 32-bit access at an offset of the register map. Raised by
  the host's register reads and writes. Safe. -/
  | badRegisterAccess (offset width : Nat)
  /-- The host accesses a part of MEM that is a device or has no storage, which the spec does not describe
  (20_memory.md R61, R62, log entry 15). Raised by MEMW and MEMR. Safe. -/
  | hostAccessNotPlain (addr n : Nat)
deriving DecidableEq, Repr

/-- An operand register after reset: never written; its value a DESIGN CHOICE (log entry 1, unsafe). -/
def OperandReg.reset : OperandReg := { value := 0#32, written := false }

/-- The transient state after reset: unspecified (R39), zero by DESIGN CHOICE (log entry 3, unsafe). -/
def Transient.reset : Transient :=
  { t := Vector.replicate 8 0#32
    x := List.replicate Config.defaultParams.laneCount ⟨0#32, 0#32, 0#32, 0#32⟩
    scratch := Vector.replicate 4 0#32
    r := 0#6
    i := 0#32 }

/-- The machine right after reset (R39, 70_reset_and_hazards.md R220): no instance, ERR 0, the operand registers
never written, MEM with nothing listed, the parameters at the spec's defaults (log entries 7, 8). RK zero is a DESIGN
CHOICE (log entry 2, unsafe). -/
def State.reset : State :=
  { kptr := OperandReg.reset
    klen := OperandReg.reset
    iptr := OperandReg.reset
    aptr := OperandReg.reset
    optr := OperandReg.reset
    nblk := OperandReg.reset
    keyValid := false
    dir := .encrypt
    nr := 0#6
    err := 0#4
    rk := Vector.replicate 192 0#32
    transient := Transient.reset
    mem := []
    params := Config.defaultParams
    platform := []
    script := []
    yielded := .nothing
    draws := 0 }

end Sys2Proof.Machine
end

