-- ==== Sys2Proof/Machine/Arx.lean ====
section
/-! DEFINITION. The ARX primitives (00_scope.md R14) and the maps between bytes, words and blocks (R15).
-/

namespace Sys2Proof.Machine

/-- `ROL(a, n)` (R14): only `n mod 32` matters. -/
def rol (a : Word) (n : Nat) : Word :=
  if n % 32 = 0 then a else (a <<< (n % 32)) ||| (a >>> (32 - n % 32))

/-- `ROR(a, n) = ROL(a, (32 - (n mod 32)) mod 32)` (R14). -/
def ror (a : Word) (n : Nat) : Word := rol a ((32 - n % 32) % 32)

/-- Byte `k` of a byte sequence (R15); no rule reads past a sequence's end. -/
def byteAt (b : List Byte) (k : Nat) : Byte := b.getD k 0#8

/-- `LE32(b, k)` (R15): four bytes, least significant first. -/
def le32 (b : List Byte) (k : Nat) : Word :=
  BitVec.ofNat 32 ((byteAt b k).toNat + 2 ^ 8 * (byteAt b (k + 1)).toNat
    + 2 ^ 16 * (byteAt b (k + 2)).toNat + 2 ^ 24 * (byteAt b (k + 3)).toNat)

/-- `ST32(w)` (R15), the inverse of `LE32`. -/
def st32 (w : Word) : List Byte :=
  [w.extractLsb' 0 8, w.extractLsb' 8 8, w.extractLsb' 16 8, w.extractLsb' 24 8]

/-- `LoadBlock` (R15): `X0` is bytes 0 to 3 (20_memory.md R52, log entry 17). -/
def loadBlock (b : List Byte) : Words4 := ⟨le32 b 0, le32 b 4, le32 b 8, le32 b 12⟩

/-- `StoreBlock` (R15). -/
def storeBlock (x : Words4) : List Byte := st32 x.x0 ++ st32 x.x1 ++ st32 x.x2 ++ st32 x.x3

/-- `a xor128 b` (R15), bytewise. -/
def xorBytes (a b : List Byte) : List Byte := List.zipWith (fun x y => x ^^^ y) a b

/-- The six subkeys in their order (40_key_schedule.md R104). -/
def subKeyList (k : SubKeys) : List Word := [k.k0, k.k1, k.k2, k.k3, k.k4, k.k5]

end Sys2Proof.Machine
end

