-- ==== Sys2Proof/Machine/Tables.lean ====
section
/-! DEFINITION. The default value of the configuration record TABLES (40_key_schedule.md R108 to R112,
41_round_engine.md R133, R138). PRESUMED (log entry 6, unsafe): the spec takes it from general knowledge of the
published cipher LEA and marks it so.
-/

namespace Sys2Proof.Machine

/-- `DELTA` (R108). -/
def defaultDelta : List Word :=
  [0xc3efe9db#32, 0x44626b02#32, 0x79e27c8a#32, 0x78df30ec#32,
   0x715ea49e#32, 0xc785da0a#32, 0xe04ef22a#32, 0xe5c40957#32]

/-- `KROT[j]` (R109), for `j` below 6. -/
def keyRotation (j : Nat) : Nat := [1, 3, 6, 11, 13, 17].getD j 0

/-- Word `j` of a key state. -/
def keyWord (t : List Word) (j : Nat) : Word := t.getD j 0#32

/-- The update of one key-state word, the `j`-th of round `r` with constant `d` (R110 to R112). -/
def mixKeyWord (d : Word) (r j : Nat) (v : Word) : Word := rol (v + rol d (r + j)) (keyRotation j)

/-- The constant of round `r` for a key of `nk` words, `DELTA[r mod NK]` (R108). -/
def roundDelta (nk r : Nat) : Word := defaultDelta.getD (r % nk) 0#32

/-- `KeyStep(16, r, T)` (R110): four words, `T[1]` used three times. -/
def keyStep16 (r : Nat) (t : List Word) : List Word × SubKeys :=
  let d := roundDelta 4 r
  let t0 := mixKeyWord d r 0 (keyWord t 0)
  let t1 := mixKeyWord d r 1 (keyWord t 1)
  let t2 := mixKeyWord d r 2 (keyWord t 2)
  let t3 := mixKeyWord d r 3 (keyWord t 3)
  ([t0, t1, t2, t3], ⟨t0, t1, t2, t1, t3, t1⟩)

/-- `KeyStep(24, r, T)` (R111): six words, all updated. -/
def keyStep24 (r : Nat) (t : List Word) : List Word × SubKeys :=
  let d := roundDelta 6 r
  let t0 := mixKeyWord d r 0 (keyWord t 0)
  let t1 := mixKeyWord d r 1 (keyWord t 1)
  let t2 := mixKeyWord d r 2 (keyWord t 2)
  let t3 := mixKeyWord d r 3 (keyWord t 3)
  let t4 := mixKeyWord d r 4 (keyWord t 4)
  let t5 := mixKeyWord d r 5 (keyWord t 5)
  ([t0, t1, t2, t3, t4, t5], ⟨t0, t1, t2, t3, t4, t5⟩)

/-- The position of the `j`-th word updated in round `r` of a 32-byte key (R112). -/
def windowIndex (r j : Nat) : Nat := (6 * r + j) % 8

/-- `KeyStep(32, r, T)` (R112): six of eight words, the window moving by six places each round. -/
def keyStep32 (r : Nat) (t : List Word) : List Word × SubKeys :=
  let d := roundDelta 8 r
  let t' := (List.range 6).foldl
    (fun u j => u.set (windowIndex r j) (mixKeyWord d r j (keyWord u (windowIndex r j)))) t
  (t', ⟨keyWord t' (windowIndex r 0), keyWord t' (windowIndex r 1), keyWord t' (windowIndex r 2),
        keyWord t' (windowIndex r 3), keyWord t' (windowIndex r 4), keyWord t' (windowIndex r 5)⟩)

/-- `TABLES.KeyStep` by key length; only 16, 24 and 32 ever reach it (R103). -/
def defaultKeyStep (klen r : Nat) (t : List Word) : List Word × SubKeys :=
  if klen = 16 then keyStep16 r t
  else if klen = 24 then keyStep24 r t
  else keyStep32 r t

/-- `TABLES.RoundF` (R133): every right-hand side reads the old words. -/
def defaultRoundF (x : Words4) (k : SubKeys) : Words4 :=
  ⟨rol ((x.x0 ^^^ k.k0) + (x.x1 ^^^ k.k1)) 9,
   ror ((x.x1 ^^^ k.k2) + (x.x2 ^^^ k.k3)) 5,
   ror ((x.x2 ^^^ k.k4) + (x.x3 ^^^ k.k5)) 3,
   x.x0⟩

/-- `TABLES.RoundI` (R138): the lines depend on one another in order. -/
def defaultRoundI (y : Words4) (k : SubKeys) : Words4 :=
  let x0 := y.x3
  let x1 := (ror y.x0 9 - (x0 ^^^ k.k0)) ^^^ k.k1
  let x2 := (rol y.x1 5 - (x1 ^^^ k.k2)) ^^^ k.k3
  let x3 := (rol y.x2 3 - (x2 ^^^ k.k4)) ^^^ k.k5
  ⟨x0, x1, x2, x3⟩

/-- The record TABLES this model runs with: the spec's default (log entry 6). -/
def tables : Tables :=
  { delta := defaultDelta
    keyStep := defaultKeyStep
    roundF := defaultRoundF
    roundI := defaultRoundI }

end Sys2Proof.Machine
end

