-- ==== Sys2Proof/Machine/Cipher.lean ====
section
/-! DEFINITION. The pure functions of the cipher (00_scope.md R17): KeyExpand (40_key_schedule.md R103 to R107),
EncBlock, DecBlock and Transform (41_round_engine.md R135, R140, R143). Each takes the record TABLES as an
argument, so that what needs only its named properties (R141) can be stated for every value of it.
-/

namespace Sys2Proof.Machine

/-- `KeyLenOK(klen)` (R103). -/
def keyLenOk (klen : Nat) : Bool := klen == 16 || klen == 24 || klen == 32

/-- `NR(klen)` (R107). -/
def roundCount (klen : Nat) : Nat :=
  if klen = 16 then 24 else if klen = 24 then 28 else if klen = 32 then 32 else 0

/-- The key load (R105): word `j` is `LE32(key, 4j)` (byte order 20_memory.md R53, log entry 17). -/
def loadKey (key : List Byte) : List Word := (List.range (key.length / 4)).map fun j => le32 key (4 * j)

/-- The subkeys of `n` rounds from round `r` on, starting from the key state `t` (R104, in ascending order). -/
def expandRounds (tb : Tables) (klen : Nat) : Nat → Nat → List Word → List Word
  | 0, _, _ => []
  | n + 1, r, t =>
    subKeyList (tb.keyStep klen r t).2 ++ expandRounds tb klen n (r + 1) (tb.keyStep klen r t).1

/-- `KeyExpand(key)` (R104): the array of `6 * NR` words and the round count. -/
def keyExpand (tb : Tables) (key : List Byte) : List Word × Nat :=
  (expandRounds tb key.length (roundCount key.length) 0 (loadKey key), roundCount key.length)

/-- The subkeys of round `r`, `rk[6r .. 6r+5]` (R132). -/
def roundSubKeys (rk : Nat → Word) (r : Nat) : SubKeys :=
  ⟨rk (6 * r), rk (6 * r + 1), rk (6 * r + 2), rk (6 * r + 3), rk (6 * r + 4), rk (6 * r + 5)⟩

/-- Rounds `0, 1, .., n - 1` of the forward direction (R135). -/
def encRounds (tb : Tables) (rk : Nat → Word) : Nat → Words4 → Words4
  | 0, x => x
  | n + 1, x => tb.roundF (encRounds tb rk n x) (roundSubKeys rk n)

/-- Rounds `n - 1, .., 1, 0` of the inverse direction (R140). -/
def decRounds (tb : Tables) (rk : Nat → Word) : Nat → Words4 → Words4
  | 0, x => x
  | n + 1, x => decRounds tb rk n (tb.roundI x (roundSubKeys rk n))

/-- `EncBlock(rk, nr, b)` (R135). -/
def encBlock (tb : Tables) (rk : Nat → Word) (nr : Nat) (b : List Byte) : List Byte :=
  storeBlock (encRounds tb rk nr (loadBlock b))

/-- `DecBlock(rk, nr, b)` (R140). -/
def decBlock (tb : Tables) (rk : Nat → Word) (nr : Nat) (b : List Byte) : List Byte :=
  storeBlock (decRounds tb rk nr (loadBlock b))

/-- `Transform(dir, rk, nr, b)` (R143). -/
def transform (tb : Tables) (dir : Direction) (rk : Nat → Word) (nr : Nat) (b : List Byte) : List Byte :=
  match dir with
  | .encrypt => encBlock tb rk nr b
  | .decrypt => decBlock tb rk nr b

/-- What one block becomes (42_parallel_lanes.md R163, 41_round_engine.md R144): XOR-before, transform, XOR-after,
each with the auxiliary block `aux`. -/
def blockResult (tb : Tables) (dir : Direction) (rk : Nat → Word) (nr : Nat) (xb xa : Bool)
    (input aux : List Byte) : List Byte :=
  let before := if xb then xorBytes input aux else input
  let after := transform tb dir rk nr before
  if xa then xorBytes after aux else after

end Sys2Proof.Machine
end

