-- ==== Sys2Proof/Machine/Ops.lean ====
section
/-! DEFINITION. The named operations over memory, registers and the instance: MemRead and MemWrite (00_scope.md
R16), the updates of State, the one error (60_exceptions.md R191), and refusing on a precondition violation (R198).
-/

namespace Sys2Proof.Machine

/-- The canonical form of a memory: addresses strictly rising, no entry equal to what an unlisted address reads as. -/
def Memory.wf : Memory → Bool
  | [] => true
  | (a, v) :: rest =>
    v != unlistedByte && rest.all (fun c => decide (a < c.1)) && Memory.wf rest

/-- Every entry of a memory lies below `size`. -/
def Memory.below (size : Nat) (m : Memory) : Bool := m.all fun c => decide (c.1 < size)

/-- The size of MEM in bytes, 2^AW (10_state.md R38, 00_scope.md R11). -/
def State.memSize (s : State) : Nat := 2 ^ s.params.addressWidth

/-- The byte at an address. -/
def Memory.readByte : Memory → Nat → Byte
  | [], _ => unlistedByte
  | (b, v) :: rest, a => if a = b then v else Memory.readByte rest a

/-- Store a byte, keeping the canonical form. -/
def Memory.writeByte : Memory → Nat → Byte → Memory
  | [], a, v => if v = unlistedByte then [] else [(a, v)]
  | (b, u) :: rest, a, v =>
    if a < b then (if v = unlistedByte then (b, u) :: rest else (a, v) :: (b, u) :: rest)
    else if a = b then (if v = unlistedByte then rest else (a, v) :: rest)
    else (b, u) :: Memory.writeByte rest a v

/-- `MemRead(addr, n)` (R16). -/
def Memory.read (m : Memory) (addr n : Nat) : List Byte := (List.range n).map fun k => m.readByte (addr + k)

/-- `MemWrite(addr, n, b)` (R16), `n` the length of `b`. -/
def Memory.write (m : Memory) (addr : Nat) : List Byte → Memory
  | [] => m
  | v :: rest => Memory.write (m.writeByte addr v) (addr + 1) rest

/-- The memory that holds the given cells, as far as they lie below `size`, and nothing else. -/
def Memory.ofCells (size : Nat) (cells : List (Nat × Byte)) : Memory :=
  cells.foldl (fun m c => if c.1 < size then m.writeByte c.1 c.2 else m) []

/-- `RK[k]` (10_state.md R27); no rule reads an index of 192 or above. -/
def State.rkAt (s : State) (k : Nat) : Word := if h : k < 192 then s.rk[k] else 0#32

/-- An operand register by name (R21). -/
def State.operand (s : State) : Operand → OperandReg
  | .kptr => s.kptr
  | .klen => s.klen
  | .iptr => s.iptr
  | .aptr => s.aptr
  | .optr => s.optr
  | .nblk => s.nblk

/-- The host's write of an operand register (R41): all 32 bits are stored, and the register has been written. -/
def State.setOperand (s : State) (o : Operand) (v : Word) : State :=
  match o with
  | .kptr => { s with kptr := { value := v, written := true } }
  | .klen => { s with klen := { value := v, written := true } }
  | .iptr => { s with iptr := { value := v, written := true } }
  | .aptr => { s with aptr := { value := v, written := true } }
  | .optr => { s with optr := { value := v, written := true } }
  | .nblk => { s with nblk := { value := v, written := true } }

/-- The operand registers of a reset: never written, their values free (R39, log entry 12). -/
def freeOperand (draw k : Nat) : OperandReg := { value := Config.freeWord draw (300 + k), written := false }

/-- RK where the spec leaves all of it unspecified (40_key_schedule.md R102, 10_state.md R39). -/
def freeRk (draw : Nat) : Vector Word 192 := Vector.ofFn fun k => Config.freeWord draw k.val

/-- RK after a key setup with the array `rk` (R100): its words, and free values beyond them. -/
def installedRk (draw : Nat) (rk : List Word) : Vector Word 192 :=
  Vector.ofFn fun k => if k.val < rk.length then rk.getD k.val 0#32 else Config.freeWord draw k.val

/-- The transient state of `lanes` lanes where nothing specifies it (10_state.md R32 to R34, R36;
93_implementation_defined.md U13). -/
def freeTransient (lanes draw : Nat) : Transient :=
  { t := Vector.ofFn fun k => Config.freeWord draw (200 + k.val)
    x := (List.range lanes).map fun l => ⟨Config.freeWord draw (400 + 4 * l), Config.freeWord draw (401 + 4 * l),
                                           Config.freeWord draw (402 + 4 * l), Config.freeWord draw (403 + 4 * l)⟩
    scratch := Vector.ofFn fun k => Config.freeWord draw (210 + k.val)
    r := (Config.freeWord draw 220).setWidth 6
    i := Config.freeWord draw 221 }

/-- ERR takes a code (R26). -/
def State.withErr (s : State) (code : BitVec 4) : State := { s with err := code }

/-- MEM takes new contents. -/
def State.withMem (s : State) (m : Memory) : State := { s with mem := m }

/-- A successful key setup makes the instance: RK, NR, DIR, KEY_VALID (R100, R118). -/
def State.install (s : State) (dir : Direction) (rk : List Word) (nr : Nat) : State :=
  { s with rk := installedRk s.draws rk, nr := BitVec.ofNat 6 nr, dir := dir, keyValid := true }

/-- KCLR destroys the instance: KEY_VALID, DIR, NR become 0 and RK is unspecified (R102). -/
def State.destroy (s : State) : State :=
  { s with keyValid := false, dir := .encrypt, nr := 0#6, rk := freeRk s.draws, draws := s.draws + 1 }

/-- After a command that used it, the transient state is unspecified (R32 to R34). -/
def State.dropTransient (s : State) : State :=
  { s with transient := freeTransient s.params.laneCount s.draws, draws := s.draws + 1 }

/-- The host's next action is taken off the script; it has yielded nothing yet. -/
def State.taken (s : State) (rest : List Action) : State := { s with script := rest, yielded := .nothing }

/-- The action yields a value to the host (30_encoding.md R88). -/
def State.yielding (s : State) (y : Yield) : State := { s with yielded := y }

/-- The platform's reset (70_reset_and_hazards.md R220): KEY_VALID, DIR, NR, ERR become 0, everything else of CORE
is unspecified, the operand registers hold no value a command may take, and MEM is the platform's. What the platform
backs with plain memory and the parameters do not change. -/
def State.resetByPlatform (s : State) : State :=
  { s with
    kptr := freeOperand s.draws 0
    klen := freeOperand s.draws 1
    iptr := freeOperand s.draws 2
    aptr := freeOperand s.draws 3
    optr := freeOperand s.draws 4
    nblk := freeOperand s.draws 5
    keyValid := false
    dir := .encrypt
    nr := 0#6
    err := 0#4
    rk := freeRk s.draws
    transient := freeTransient s.params.laneCount s.draws
    mem := Memory.ofCells s.memSize (Config.freeCells s.draws)
    draws := s.draws + 1 }

/-- `raise InvalidKeyLength` (60_exceptions.md R191): ERR becomes 1, nothing else changes, the command is complete.
There is no trap entry: nothing is saved, no mode changes, no control is transferred (R196). -/
def raiseInvalidKeyLength (s : State) : Host.Outcome State Fault Refusal := .next (s.withErr 1#4)

/-- The `require` lines of a command in their order: the first that does not hold refuses (R198), and with all of
them true the command goes on. -/
def require : List (Bool × Refusal) → Host.Outcome State Fault Refusal → Host.Outcome State Fault Refusal
  | [], k => k
  | (holds, reason) :: rest, k => if holds then require rest k else .refused reason

end Sys2Proof.Machine
end

