-- ==== Sys2Proof/Machine/Operands.lean ====
section
/-! DEFINITION. How commands take their operands (30_encoding.md R77), the regions they name (20_memory.md R57), and
the conditions on regions: inside MEM (R56), plain memory (R61, R62), independent (R58).
-/

namespace Sys2Proof.Machine

/-- Two ranges of addresses, each given by its first address and its size, share no address. -/
abbrev Apart (a n b m : Nat) : Prop := n = 0 ∨ m = 0 ∨ a + n ≤ b ∨ b + m ≤ a

/-- No wrap: a region lies inside the `2^AW` bytes of MEM, the sum taken in unbounded integers (R56). -/
abbrev Fits (s : State) (base size : Nat) : Prop := base + size ≤ s.memSize

/-- A region touches no device and no address without storage (R61, R62). -/
abbrev PlainRegion (s : State) (base size : Nat) : Prop := ∀ g ∈ s.platform, Apart base size g.base g.size

/-- The value an operand register holds, as the unsigned number a command uses it as (R77). -/
def State.operandNat (s : State) (o : Operand) : Nat := (s.operand o).value.toNat

/-- `IN_i`'s first address (R57). -/
def State.inAddr (s : State) (i : Nat) : Nat := s.operandNat .iptr + 16 * i

/-- `OUT_i`'s first address (R57). -/
def State.outAddr (s : State) (i : Nat) : Nat := s.operandNat .optr + 16 * i

/-- `AUX_i`'s first address (R57): the stream advances, or is constant when `ac` is set. -/
def State.auxAddr (s : State) (ac : Bool) (i : Nat) : Nat :=
  s.operandNat .aptr + (if ac then 0 else 16 * i)

/-- The size of the auxiliary region of `n` blocks (R163). -/
def auxSize (ac : Bool) (n : Nat) : Nat := if ac then 16 else 16 * n

/-- No block's output bytes are bytes that the block of another index below `n` reads, `out i` and `rd i` being the
first addresses of the 16 bytes that block `i` writes and reads (R58). -/
abbrev ClearOfOthers (out rd : Nat → Nat) (n : Nat) : Prop :=
  ∀ i < n, ∀ j < n, i ≠ j → Apart (out i) 16 (rd j) 16

/-- `Independent` (R58), the read set being the input block and, when `aux` is set, the auxiliary block. -/
def independent (s : State) (aux ac : Bool) (n : Nat) : Bool :=
  decide (ClearOfOthers s.outAddr s.inAddr n) && (!aux || decide (ClearOfOthers s.outAddr (s.auxAddr ac) n))

/-- A command takes an operand register (R77): one never written since reset is refused, as the spec states of this use
(10_state.md R39, 60_exceptions.md R197 (h) and R198, 93_implementation_defined.md U11). -/
def needsOperand (s : State) (o : Operand) : Bool × Refusal := ((s.operand o).written, .operandNotWritten o)

/-- A region must lie inside MEM (R56, R197 (d)). -/
def needsFit (s : State) (base size : Nat) : Bool × Refusal :=
  (decide (Fits s base size), .regionOutsideMem base size)

/-- A region must be plain memory (R61, R62, R197 (f)). -/
def needsPlain (s : State) (base size : Nat) : Bool × Refusal :=
  (decide (PlainRegion s base size), .regionNotPlain base size)

/-- A transform needs a prepared instance (R197 (b)). -/
def needsInstance (s : State) : Bool × Refusal := (s.keyValid, .noInstance)

/-- A PCL must be independent (R197 (e)). -/
def needsIndependent (s : State) (aux ac : Bool) (n : Nat) : Bool × Refusal :=
  (independent s aux ac n, .notIndependent)

/-- One block of a transform from `m`: the input block and, where a flag asks for it, the auxiliary block are read
before any byte of the output block is written (20_memory.md R59, R64). -/
def oneBlock (s : State) (xb xa : Bool) (input aux output : Nat) (m : Memory) : Memory :=
  let i := m.read input 16
  let a := if xb || xa then m.read aux 16 else []
  m.write output (blockResult tables s.dir s.rkAt s.nr.toNat xb xa i a)

end Sys2Proof.Machine
end

