-- ==== Sys2Proof/Machine/KeySchedule.lean ====
section
/-! DEFINITION. The key commands KSE.ENC, KSE.DEC and KCLR (40_key_schedule.md R100 to R102).
-/

namespace Sys2Proof.Machine

/-- The key bytes, `MemRead(KPTR, KLEN)`. -/
def State.keyBytes (s : State) : List Byte := s.mem.read (s.operandNat .kptr) (s.operandNat .klen)

/-- The state after a successful key setup (R100): the instance, ERR 0; the key state is not kept (R32, R119). -/
def keyInstalled (dir : Direction) (s : State) : State :=
  let e := keyExpand tables s.keyBytes
  ((s.install dir e.1 e.2).dropTransient).withErr 0#4

/-- A key setup in either direction, with the order of checks of 60_exceptions.md R195: KLEN, the length gate, KPTR
and the key region, then the expansion. -/
def keySetup (dir : Direction) (s : State) : Host.Outcome State Fault Refusal :=
  require [needsOperand s .klen]
    (if keyLenOk (s.operandNat .klen) then
      require
        [needsOperand s .kptr,
         needsFit s (s.operandNat .kptr) (s.operandNat .klen),
         needsPlain s (s.operandNat .kptr) (s.operandNat .klen)]
        (.next (keyInstalled dir s))
    else raiseInvalidKeyLength s)

/-- KSE.ENC (R100). -/
def execKseEnc (s : State) : Host.Outcome State Fault Refusal := keySetup .encrypt s

/-- KSE.DEC (R101): KSE.ENC with DIR 1. -/
def execKseDec (s : State) : Host.Outcome State Fault Refusal := keySetup .decrypt s

/-- KCLR (R102): legal in every state. -/
def execKclr (s : State) : Host.Outcome State Fault Refusal := .next (s.destroy.withErr 0#4)

end Sys2Proof.Machine
end

