-- ==== Sys2Proof/Machine/Lanes.lean ====
section
/-! DEFINITION. The command PCL (42_parallel_lanes.md R163), whose meaning is the sequential program; and the lanes
(R167 to R169), the same transform as CORE computes it in groups of W blocks with a scalar tail, which no result
depends on (R170).
-/

namespace Sys2Proof.Machine

/-- The block count `N = NBLK`. -/
def State.blockCount (s : State) : Nat := s.operandNat .nblk

/-- What PCL requires for its regions when it has blocks to do (R163, R165). -/
def pclRegionRequires (xb xa ac : Bool) (s : State) : List (Bool × Refusal) :=
  [needsOperand s .iptr, needsOperand s .optr]
    ++ (if xb || xa then [needsOperand s .aptr] else [])
    ++ [needsFit s (s.operandNat .iptr) (16 * s.blockCount), needsFit s (s.operandNat .optr) (16 * s.blockCount)]
    ++ (if xb || xa then [needsFit s (s.operandNat .aptr) (auxSize ac s.blockCount)] else [])
    ++ [needsPlain s (s.operandNat .iptr) (16 * s.blockCount),
        needsPlain s (s.operandNat .optr) (16 * s.blockCount)]
    ++ (if xb || xa then [needsPlain s (s.operandNat .aptr) (auxSize ac s.blockCount)] else [])
    ++ [needsIndependent s (xb || xa) ac s.blockCount]

/-- What PCL requires (R163): an instance and NBLK always, its regions when there are blocks (R164). -/
def pclRequires (xb xa ac : Bool) (s : State) : List (Bool × Refusal) :=
  [needsInstance s, needsOperand s .nblk]
    ++ (if 0 < s.blockCount then pclRegionRequires xb xa ac s else [])

/-- MEM after the blocks `0, 1, .., n - 1`, in this order (R163, 20_memory.md R64). -/
def pclBlocks (xb xa ac : Bool) (s : State) : Nat → Memory
  | 0 => s.mem
  | n + 1 => oneBlock s xb xa (s.inAddr n) (s.auxAddr ac n) (s.outAddr n) (pclBlocks xb xa ac s n)

/-- The state after a PCL (R163): the output blocks are written, ERR is 0. -/
def pclDone (xb xa ac : Bool) (s : State) : State :=
  ((s.withMem (pclBlocks xb xa ac s s.blockCount)).dropTransient).withErr 0#4

/-- PCL with its flags (R163). -/
def execPcl (xb xa ac : Bool) (s : State) : Host.Outcome State Fault Refusal :=
  require (pclRequires xb xa ac s) (.next (pclDone xb xa ac s))

/-- The four vectors of a lane group: `V[j]` holds word `X_j` of the block in each lane (R168). -/
structure LaneVectors where
  v0 : List Word
  v1 : List Word
  v2 : List Word
  v3 : List Word
deriving DecidableEq, Repr

/-- Interleave: the blocks' corresponding words go into one vector (R168). -/
def interleave (blocks : List Words4) : LaneVectors :=
  ⟨blocks.map (·.x0), blocks.map (·.x1), blocks.map (·.x2), blocks.map (·.x3)⟩

/-- The block in lane `l` (R168). -/
def laneBlock (v : LaneVectors) (l : Nat) : Words4 :=
  ⟨v.v0.getD l 0#32, v.v1.getD l 0#32, v.v2.getD l 0#32, v.v3.getD l 0#32⟩

/-- De-interleave (R168). -/
def deinterleave (v : LaneVectors) : List Words4 := (List.range v.v0.length).map (laneBlock v)

/-- One round on a lane group: the same round function with the same subkeys on every lane, nothing crossing from
one lane to another (R169). -/
def laneRound (round : Words4 → SubKeys → Words4) (k : SubKeys) (v : LaneVectors) : LaneVectors :=
  interleave ((deinterleave v).map fun x => round x k)

/-- Rounds `0, 1, .., n - 1` on all lanes at the same time (R169, DIR = 0). -/
def laneEncRounds (tb : Tables) (rk : Nat → Word) : Nat → LaneVectors → LaneVectors
  | 0, v => v
  | n + 1, v => laneRound tb.roundF (roundSubKeys rk n) (laneEncRounds tb rk n v)

/-- Rounds `n - 1, .., 1, 0` on all lanes at the same time (R169, DIR = 1). -/
def laneDecRounds (tb : Tables) (rk : Nat → Word) : Nat → LaneVectors → LaneVectors
  | 0, v => v
  | n + 1, v => laneDecRounds tb rk n (laneRound tb.roundI (roundSubKeys rk n) v)

/-- All rounds on a lane group in the instance's direction. -/
def laneRounds (tb : Tables) (dir : Direction) (rk : Nat → Word) (nr : Nat) (v : LaneVectors) : LaneVectors :=
  match dir with
  | .encrypt => laneEncRounds tb rk nr v
  | .decrypt => laneDecRounds tb rk nr v

/-- Store the blocks of a lane group, the first at `output` (20_memory.md R57). -/
def storeBlocks (output : Nat) : List (List Byte) → Memory → Memory
  | [], m => m
  | b :: rest, m => storeBlocks (output + 16) rest (m.write output b)

/-- A lane group of `w` blocks from block `first` on (R167, R168): all its blocks are loaded, XORed before,
interleaved, taken through the rounds, de-interleaved, XORed after and stored. -/
def laneGroup (xb xa ac : Bool) (s : State) (w first : Nat) (m : Memory) : Memory :=
  let indices := (List.range w).map (first + ·)
  let auxes := indices.map fun i => if xb || xa then m.read (s.auxAddr ac i) 16 else []
  let inputs := indices.map fun i => m.read (s.inAddr i) 16
  let before := if xb then List.zipWith xorBytes inputs auxes else inputs
  let out := deinterleave (laneRounds tables s.dir s.rkAt s.nr.toNat (interleave (before.map loadBlock)))
  let stored := out.map storeBlock
  let after := if xa then List.zipWith xorBytes stored auxes else stored
  storeBlocks (s.outAddr first) after m

/-- The lane groups `0, 1, .., g - 1` of `w` blocks each (R167). -/
def laneGroups (xb xa ac : Bool) (s : State) (w : Nat) : Nat → Memory
  | 0 => s.mem
  | g + 1 => laneGroup xb xa ac s w (g * w) (laneGroups xb xa ac s w g)

/-- The tail: `n` blocks from block `first` on through the scalar path (R167). -/
def laneTail (xb xa ac : Bool) (s : State) (first : Nat) : Nat → Memory → Memory
  | 0, m => m
  | n + 1, m =>
    oneBlock s xb xa (s.inAddr (first + n)) (s.auxAddr ac (first + n)) (s.outAddr (first + n))
      (laneTail xb xa ac s first n m)

/-- MEM after `n` blocks with `w` lanes (R167): `n / w` lane groups, then the remaining `n mod w` blocks. -/
def pclByLanes (xb xa ac : Bool) (s : State) (w n : Nat) : Memory :=
  laneTail xb xa ac s (n / w * w) (n % w) (laneGroups xb xa ac s w (n / w))

end Sys2Proof.Machine
end

