-- ==== Sys2Proof/Machine/RoundEngine.lean ====
section
/-! DEFINITION. The command BLK (41_round_engine.md R144).
-/

namespace Sys2Proof.Machine

/-- What BLK requires (R144, 30_encoding.md R77): an instance, and its regions; APTR only with `xa`. -/
def blkRequires (xa : Bool) (s : State) : List (Bool × Refusal) :=
  [needsInstance s, needsOperand s .iptr, needsOperand s .optr]
    ++ (if xa then [needsOperand s .aptr] else [])
    ++ [needsFit s (s.operandNat .iptr) 16, needsFit s (s.operandNat .optr) 16]
    ++ (if xa then [needsFit s (s.operandNat .aptr) 16] else [])
    ++ [needsPlain s (s.operandNat .iptr) 16, needsPlain s (s.operandNat .optr) 16]
    ++ (if xa then [needsPlain s (s.operandNat .aptr) 16] else [])

/-- The state after a BLK (R144): the output block is written, ERR is 0, the instance is only read. -/
def blkDone (xa : Bool) (s : State) : State :=
  ((s.withMem (oneBlock s false xa (s.operandNat .iptr) (s.operandNat .aptr) (s.operandNat .optr) s.mem)
    ).dropTransient).withErr 0#4

/-- BLK and BLK.XA (R144). -/
def execBlk (xa : Bool) (s : State) : Host.Outcome State Fault Refusal :=
  require (blkRequires xa s) (.next (blkDone xa s))

end Sys2Proof.Machine
end

