-- ==== Sys2Proof/Machine/Dispatch.lean ====
section
/-! DEFINITION. The command a decoded word stands for: one arm per constructor of Instr (30_encoding.md R78).
-/

namespace Sys2Proof.Machine

def exec (i : Instr) (s : State) : Host.Outcome State Fault Refusal :=
  match i with
  | .kseEnc => Sys2Proof.Machine.execKseEnc s
  | .kseDec => Sys2Proof.Machine.execKseDec s
  | .kclr => Sys2Proof.Machine.execKclr s
  | .blk xa => Sys2Proof.Machine.execBlk xa s
  | .pcl xb xa ac => Sys2Proof.Machine.execPcl xb xa ac s

end Sys2Proof.Machine
end

