-- ==== Sys2Proof/Machine/Flags.lean ====
section
/-! DEFINITION. The status bits. CORE has no arithmetic flags (10_state.md R37): additions wrap and record nothing.
What the host tests are the fields of STATUS (R25); CAP carries the identity constants (R23).
-/

namespace Sys2Proof.Machine

/-- The bit DIR of a direction (R30). -/
def Direction.bit : Direction → Bool
  | .encrypt => false
  | .decrypt => true

/-- STATUS as read (R25): DIR and NR read 0 while there is no instance, BUSY reads 0 (R43). -/
def State.statusWord (s : State) : Word :=
  (BitVec.ofBool s.keyValid).setWidth 32
    ||| ((BitVec.ofBool (s.keyValid && s.dir.bit)).setWidth 32 <<< 1)
    ||| (s.err.setWidth 32 <<< 4)
    ||| ((if s.keyValid then s.nr.setWidth 32 else 0#32) <<< 8)

/-- CAP as read (R23) for a batch width: block size 16, K16, K24 and K32 set, LANES. -/
def capWord (lanes : Nat) : Word :=
  16#32 ||| (1#32 <<< 8) ||| (1#32 <<< 9) ||| (1#32 <<< 10) ||| (BitVec.ofNat 32 (lanes % 16) <<< 12)

end Sys2Proof.Machine
end

