-- ==== Sys2Proof/Machine/HostPort.lean ====
section
/-! DEFINITION. What a host action does (30_encoding.md R88): register reads and writes (10_state.md R22 to R25,
R41), the issue of a command (R24), MEM reads and writes, and the platform's reset (70_reset_and_hazards.md R220).
-/

namespace Sys2Proof.Machine

/-- A write of the word `w` to CMD issues the command it decodes to; an `Invalid` word is refused (R24,
30_encoding.md R84, 60_exceptions.md R197 (a)). -/
def issue (w : Word) (s : State) : Host.Outcome State Fault Refusal :=
  match decode w with
  | .command i => exec i s
  | .invalid => .refused (.invalidCommand w)

/-- A register write (R41): CAP and STATUS ignore it, CMD issues, an operand register stores all 32 bits. -/
def writeReg (r : Reg) (v : Word) (s : State) : Host.Outcome State Fault Refusal :=
  match r with
  | .cap => .next s
  | .status => .next s
  | .cmd => issue v s
  | .operand o => .next (s.setOperand o v)

/-- A register read (R41): CMD reads 0, an operand register never written since reset is refused (R39, R197 (h)). -/
def readReg (r : Reg) (s : State) : Host.Outcome State Fault Refusal :=
  match r with
  | .cap => .next (s.yielding (.word (capWord s.params.laneCount)))
  | .cmd => .next (s.yielding (.word 0#32))
  | .status => .next (s.yielding (.word s.statusWord))
  | .operand o =>
    require [needsOperand s o] (.next (s.yielding (.word (s.operand o).value)))

/-- The register an access reaches: one aligned 32-bit access at an offset of the map (R22, R41). -/
def accessedReg (offset width : Nat) : Option Reg := if width = 32 then regAt offset else none

/-- A MEM access of the host: an address MEM does not have faults, a device or a hole is refused (log entry 15). -/
def hostMemAccess (s : State) (addr n : Nat) (done : State) : Host.Outcome State Fault Refusal :=
  if Fits s addr n then require [(decide (PlainRegion s addr n), .hostAccessNotPlain addr n)] (.next done)
  else .fault (.noSuchAddress addr n)

/-- One action, from the state in which it has been taken off the script. -/
def act (a : Action) (s : State) : Host.Outcome State Fault Refusal :=
  match a with
  | .regWrite offset width v =>
    match accessedReg offset width with
    | some r => writeReg r v s
    | none => .refused (.badRegisterAccess offset width)
  | .regRead offset width =>
    match accessedReg offset width with
    | some r => readReg r s
    | none => .refused (.badRegisterAccess offset width)
  | .memWrite addr bytes => hostMemAccess s addr bytes.length (s.withMem (s.mem.write addr bytes))
  | .memRead addr n => hostMemAccess s addr n (s.yielding (.bytes (s.mem.read addr n)))
  | .platformReset => .next s.resetByPlatform

/-- The script in which an instruction of `nbits` bits `w` is the next action: a 32-bit write of the word to CMD,
before everything still to come (30_encoding.md R75, R89). -/
def commandScript (nbits w : Nat) (rest : List Action) : List Action :=
  .wr .cmd (BitVec.ofNat 32 (w % 2 ^ nbits)) :: rest

end Sys2Proof.Machine
end

