-- ==== Sys2Proof/Machine/Step.lean ====
section
/-! DEFINITION. One step: the next host action of the script (10_state.md R40, 70_reset_and_hazards.md R233). There
is no program counter and no fetch (R36); with no action left nothing happens (log entry 9).
-/

namespace Sys2Proof.Machine

/-- One step of the machine. -/
def step (s : State) : Host.Outcome State Fault Refusal :=
  match s.script with
  | [] => .next s
  | a :: rest => act a (s.taken rest)

/-- `s` with an instruction as the host's next action: `step (s.withFetchWord nbits w)` issues it. -/
def State.withFetchWord (s : State) (nbits w : Nat) : State := { s with script := commandScript nbits w s.script }

end Sys2Proof.Machine
end

