-- ==== Sys2Proof/Safety.lean ====
section
/-! DEFINITION. The terms claims are stated in: when a command's preconditions hold (40_key_schedule.md R100,
41_round_engine.md R144, 42_parallel_lanes.md R163, R165), the invariant of the machine, and the runs of scalar
commands that a batched command is compared with (42_parallel_lanes.md R170).
-/

namespace Sys2Proof.Machine

/-- A key setup that will succeed (R100, 60_exceptions.md R195): KLEN and KPTR written, an accepted length, the key
region inside plain MEM. -/
abbrev KeyReady (s : State) : Prop :=
  s.klen.written = true ∧ keyLenOk (s.operandNat .klen) = true ∧ s.kptr.written = true ∧
  Fits s (s.operandNat .kptr) (s.operandNat .klen) ∧ PlainRegion s (s.operandNat .kptr) (s.operandNat .klen)

/-- A key setup that raises InvalidKeyLength (60_exceptions.md R192): KLEN written and not 16, 24 or 32. -/
abbrev KeyLengthBad (s : State) : Prop :=
  s.klen.written = true ∧ keyLenOk (s.operandNat .klen) = false

/-- An operand register a transform takes, with its region of `size` bytes: written, inside MEM, plain. -/
abbrev PointerReady (s : State) (o : Operand) (size : Nat) : Prop :=
  (s.operand o).written = true ∧ Fits s (s.operandNat o) size ∧ PlainRegion s (s.operandNat o) size

/-- The preconditions of BLK (R144): an instance, IPTR and OPTR, and APTR with `xa`. -/
abbrev BlkReady (xa : Bool) (s : State) : Prop :=
  s.keyValid = true ∧ PointerReady s .iptr 16 ∧ PointerReady s .optr 16 ∧
  (xa = true → PointerReady s .aptr 16)

/-- The preconditions of the regions of a PCL (R163, R165). -/
abbrev PclRegionsReady (xb xa ac : Bool) (s : State) : Prop :=
  PointerReady s .iptr (16 * s.blockCount) ∧ PointerReady s .optr (16 * s.blockCount) ∧
  ((xb || xa) = true → PointerReady s .aptr (auxSize ac s.blockCount)) ∧
  independent s (xb || xa) ac s.blockCount = true

/-- The preconditions of PCL (R163 to R165): an instance and NBLK always, the regions when there are blocks. -/
abbrev PclReady (xb xa ac : Bool) (s : State) : Prop :=
  s.keyValid = true ∧ s.nblk.written = true ∧ (0 < s.blockCount → PclRegionsReady xb xa ac s)

/-- When a command completes: it has its effect, or a key setup reports InvalidKeyLength (60_exceptions.md R197
lists when it does not). -/
def Completes : Instr → State → Prop
  | .kseEnc, s => KeyLengthBad s ∨ KeyReady s
  | .kseDec, s => KeyLengthBad s ∨ KeyReady s
  | .kclr, _ => True
  | .blk xa, s => BlkReady xa s
  | .pcl xb xa ac, s => PclReady xb xa ac s

/-- The invariant of the machine: the parameters are ones the spec allows (00_scope.md R10, R11); MEM in canonical form
and inside its `2^AW` addresses (R38); W lanes (R33); with an instance NR is 24, 28 or 32 (10_state.md R29),
without one NR and DIR are 0 (R25, R29, R30); ERR is 0 or 1 (R26). -/
abbrev Inv (s : State) : Prop :=
  s.params.Legal ∧
  s.mem.wf = true ∧
  Memory.below s.memSize s.mem = true ∧
  s.transient.x.length = s.params.laneCount ∧
  (s.keyValid = true → s.nr = 24#6 ∨ s.nr = 28#6 ∨ s.nr = 32#6) ∧
  (s.keyValid = false → s.nr = 0#6 ∧ s.dir = .encrypt) ∧
  (s.err = 0#4 ∨ s.err = 1#4)

/-- An address is one of the `n` output bytes at `base`. -/
abbrev InRange (a base n : Nat) : Prop := base ≤ a ∧ a < base + n

/-- The bytes a command may store to (20_memory.md R71): none but the output blocks of BLK and PCL. -/
def StoresTo : Instr → State → Nat → Prop
  | .kseEnc, _, _ => False
  | .kseDec, _, _ => False
  | .kclr, _, _ => False
  | .blk _, s, a => InRange a (s.operandNat .optr) 16
  | .pcl _ _ _, s, a => InRange a (s.operandNat .optr) (16 * s.blockCount)

/-- Every operand register is as before (10_state.md R42). -/
abbrev SameOperands (s t : State) : Prop := ∀ o, t.operand o = s.operand o

/-- The instance is as before: KEY_VALID, DIR, NR, RK (10_state.md R28). -/
abbrev SameInstance (s t : State) : Prop :=
  t.keyValid = s.keyValid ∧ t.dir = s.dir ∧ t.nr = s.nr ∧ t.rk = s.rk

/-- Every byte of MEM reads as before. -/
abbrev SameMem (s t : State) : Prop := ∀ a, t.mem.readByte a = s.mem.readByte a

/-- What is no part of CORE's state in the spec is as before, the parameters and the model's own fields (log entries 7
to 11): AW and W, the platform's map, the actions to come, what was yielded. -/
abbrev SameOutside (s t : State) : Prop :=
  t.params = s.params ∧ t.platform = s.platform ∧ t.script = s.script ∧ t.yielded = s.yielded

/-- What a key setup by the command `i`, making an instance of direction `dir`, does from `s` (40_key_schedule.md
R100, R101): refused without KLEN; ERR 1 and nothing else on a bad length; refused when the key region cannot be
used; else the instance, with the array KeyExpand gives, ERR 0, and no operand register and no byte of MEM written. -/
abbrev KeySetupSpec (i : Instr) (dir : Direction) (s : State) : Prop :=
  (s.klen.written = false → ∃ r, exec i s = .refused r) ∧
  (KeyLengthBad s → exec i s = .next { s with err := 1#4 }) ∧
  (s.klen.written = true → keyLenOk (s.operandNat .klen) = true → ¬ KeyReady s → ∃ r, exec i s = .refused r) ∧
  (KeyReady s → ∃ t, exec i s = .next t ∧
    t.keyValid = true ∧ t.dir = dir ∧ t.nr.toNat = roundCount (s.operandNat .klen) ∧ t.err = 0#4 ∧
    (∀ k < 6 * roundCount (s.operandNat .klen),
      t.rkAt k = (keyExpand tables (s.mem.read (s.operandNat .kptr) (s.operandNat .klen))).1.getD k 0#32) ∧
    SameOperands s t ∧ SameMem s t ∧ SameOutside s t)

/-- The key state entering round `r` (40_key_schedule.md R104, R106): the loaded key, updated by each round before. -/
def keyStateAt (tb : Tables) (key : List Byte) : Nat → List Word
  | 0 => loadKey key
  | r + 1 => (tb.keyStep key.length r (keyStateAt tb key r)).1

/-- The address of block `i` as the host writes it to a pointer register. -/
def pointerWord (base i : Nat) : Word := BitVec.ofNat 32 (base + 16 * i)

/-- The host prepares a PCL of one block, block `i` of a larger one of state `s0` (R170): the pointers advanced by
16 a block, APTR not advanced when `ac` is set, NBLK 1. -/
def prepareBlock (ac : Bool) (s0 : State) (i : Nat) (s : State) : State :=
  (((s.setOperand .iptr (pointerWord (s0.operandNat .iptr) i)).setOperand .optr
    (pointerWord (s0.operandNat .optr) i)).setOperand .aptr
    (pointerWord (s0.operandNat .aptr) (if ac then 0 else i))).setOperand .nblk 1#32

/-- `n` commands PCL with NBLK 1, on the blocks `0, 1, .., n - 1` of `s0` one after another (R170). -/
def scalarRun (xb xa ac : Bool) (s0 : State) : Nat → Host.Outcome State Fault Refusal
  | 0 => .next s0
  | n + 1 =>
    match scalarRun xb xa ac s0 n with
    | .next s => exec (.pcl xb xa ac) (prepareBlock ac s0 n s)
    | .fault r => .fault r
    | .refused r => .refused r

end Sys2Proof.Machine
end

