-- ==== Sys2Proof/Certificates/Slice0/Obligations.lean ====
section
/-! DEFINITION. The statements for the provers. Each docstring names the rule of spec/ it formalises.
-/

open Sys2Proof Sys2Proof.Machine

/-! ## Encoding -/

/-- 30_encoding.md R79 to R83: the thirteen legal words and the command of each. -/
def Obligations.CommandWordsDecodeAsListed : Prop :=
  decode 0x00000001#32 = .command .kseEnc ∧ decode 0x00000011#32 = .command .kseDec ∧
  decode 0x00000004#32 = .command .kclr ∧
  decode 0x00000002#32 = .command (.blk false) ∧ decode 0x00000202#32 = .command (.blk true) ∧
  decode 0x00000003#32 = .command (.pcl false false false) ∧
  decode 0x00000103#32 = .command (.pcl true false false) ∧
  decode 0x00000203#32 = .command (.pcl false true false) ∧
  decode 0x00000303#32 = .command (.pcl true true false) ∧
  decode 0x00000403#32 = .command (.pcl false false true) ∧
  decode 0x00000503#32 = .command (.pcl true false true) ∧
  decode 0x00000603#32 = .command (.pcl false true true) ∧
  decode 0x00000703#32 = .command (.pcl true true true)

/-- 30_encoding.md R78 to R83, R91: a word decodes to a command exactly when it is that command's word, so every
command has one spelling and no bit of a word is dropped. -/
def Obligations.DecodeAndEncodeAgree : Prop :=
  ∀ (w : Word) (i : Instr), decode w = .command i ↔ w = encode i

/-- 30_encoding.md R78: a word selects a row exactly when `w & mask = match`; a word that selects none is reserved. -/
def Obligations.OpcodeMapDecidesEveryWord : Prop :=
  ∀ w : Word,
    (decode w = .command .kseEnc ↔ w &&& 0xFFFFFFFF#32 = 0x00000001#32) ∧
    (decode w = .command .kseDec ↔ w &&& 0xFFFFFFFF#32 = 0x00000011#32) ∧
    (decode w = .command (.blk (w.getLsbD 9)) ↔ w &&& 0xFFFFFDFF#32 = 0x00000002#32) ∧
    (decode w = .command (.pcl (w.getLsbD 8) (w.getLsbD 9) (w.getLsbD 10)) ↔
      w &&& 0xFFFFF8FF#32 = 0x00000003#32) ∧
    (decode w = .command .kclr ↔ w &&& 0xFFFFFFFF#32 = 0x00000004#32) ∧
    decode w = tableDecode w

/-- 30_encoding.md R84: which words are reserved, and that issuing one is refused. -/
def Obligations.ReservedWordsAreInvalidAndRefused : Prop :=
  ∀ w : Word,
    (decode w = .invalid ↔
      w.extractLsb' 0 4 = 0#4 ∨ 5#4 ≤ w.extractLsb' 0 4 ∨ w.extractLsb' 12 20 ≠ 0#20 ∨
      w.extractLsb' 5 3 ≠ 0#3 ∨ w.getLsbD 11 = true ∨
      (w.getLsbD 4 = true ∧ w.extractLsb' 0 4 ≠ 1#4) ∨
      ((w.getLsbD 8 = true ∨ w.getLsbD 10 = true) ∧ w.extractLsb' 0 4 ≠ 3#4) ∨
      (w.getLsbD 9 = true ∧ w.extractLsb' 0 4 ≠ 2#4 ∧ w.extractLsb' 0 4 ≠ 3#4) ∨
      ((w.getLsbD 8 = true ∨ w.getLsbD 9 = true ∨ w.getLsbD 10 = true) ∧
        (w.extractLsb' 0 4 = 1#4 ∨ w.extractLsb' 0 4 = 4#4))) ∧
    (decode w = .invalid → ∀ (s : State) (rest : List Action), s.script = .wr .cmd w :: rest →
      step s = .refused (.invalidCommand w)) ∧
    decode 0x00000000#32 = .invalid ∧ decode 0xFFFFFFFF#32 = .invalid

/-! ## The step -/

/-- 10_state.md R24: a write of a word to CMD runs the command the word decodes to, from the state with that write
taken off the script, and the step ends when the command does; CMD stores nothing and reads 0. -/
def Obligations.StepRunsTheIssuedCommand : Prop :=
  (∀ (s : State) (w : Word) (i : Instr) (rest : List Action),
    s.script = .wr .cmd w :: rest → decode w = .command i → step s = exec i (s.taken rest)) ∧
  (∀ (s : State) (rest : List Action), s.script = .rd .cmd :: rest →
    step s = .next ((s.taken rest).yielding (.word 0#32)))

/-- The model's own (log entry 9): the word placed as the next action is the one the next step runs. -/
def Obligations.PlacedWordIsTheNextStep : Prop :=
  ∀ (i : Instr) (s : State),
    decodeTableWord 32 (encode i).toNat = some i ∧
    step (s.withFetchWord 32 (encode i).toNat) = exec i (s.taken s.script)

/-! ## Key setup -/

/-- 40_key_schedule.md R100. -/
def Obligations.KseEncMakesAnEncryptionInstance : Prop :=
  decode 0x00000001#32 = .command .kseEnc ∧ ∀ s : State, KeySetupSpec .kseEnc .encrypt s

/-- 40_key_schedule.md R101. -/
def Obligations.KseDecMakesADecryptionInstance : Prop :=
  decode 0x00000011#32 = .command .kseDec ∧ ∀ s : State, KeySetupSpec .kseDec .decrypt s

/-- 60_exceptions.md R191, R192: any length but 16, 24 and 32 sets ERR to 1 and changes nothing else. -/
def Obligations.BadKeyLengthSetsErrOnly : Prop :=
  ∀ s : State, s.klen.written = true →
    s.klen.value ≠ 16#32 → s.klen.value ≠ 24#32 → s.klen.value ≠ 32#32 →
    exec .kseEnc s = .next { s with err := 1#4 } ∧ exec .kseDec s = .next { s with err := 1#4 }

/-- 60_exceptions.md R195: the order of the checks of a key setup. -/
def Obligations.KeySetupChecksInOrder : Prop :=
  (∀ (s : State) (w : Word) (rest : List Action), s.script = .wr .cmd w :: rest → decode w = .invalid →
    step s = .refused (.invalidCommand w)) ∧
  ∀ (i : Instr) (dir : Direction), (i = .kseEnc ∧ dir = .encrypt) ∨ (i = .kseDec ∧ dir = .decrypt) →
    ∀ s : State,
      (s.klen.written = false → exec i s = .refused (.operandNotWritten .klen)) ∧
      (KeyLengthBad s → exec i s = .next { s with err := 1#4 }) ∧
      (s.klen.written = true → keyLenOk (s.operandNat .klen) = true → s.kptr.written = false →
        exec i s = .refused (.operandNotWritten .kptr)) ∧
      (s.klen.written = true → keyLenOk (s.operandNat .klen) = true → s.kptr.written = true →
        ¬ Fits s (s.operandNat .kptr) (s.operandNat .klen) →
        exec i s = .refused (.regionOutsideMem (s.operandNat .kptr) (s.operandNat .klen))) ∧
      (KeyReady s → ∃ t, exec i s = .next t ∧ t.keyValid = true ∧ t.dir = dir ∧ t.err = 0#4 ∧
        ∀ k < 6 * roundCount (s.operandNat .klen),
          t.rkAt k = (keyExpand tables (s.mem.read (s.operandNat .kptr) (s.operandNat .klen))).1.getD k 0#32)

/-- 40_key_schedule.md R115: the two directions get the same array and the same round count. -/
def Obligations.BothDirectionsShareOneSchedule : Prop :=
  ∀ s : State, KeyReady s →
    ∃ e d, exec .kseEnc s = .next e ∧ exec .kseDec s = .next d ∧
      e.nr = d.nr ∧ (∀ k < 6 * e.nr.toNat, e.rkAt k = d.rkAt k) ∧
      e.keyValid = true ∧ d.keyValid = true ∧ e.dir = .encrypt ∧ d.dir = .decrypt

/-- 40_key_schedule.md R118: nothing of the old instance remains after a successful key setup. -/
def Obligations.RekeyingLeavesNothingOfTheOldInstance : Prop :=
  ∀ (s : State) (rk : Vector Word 192) (nr : BitVec 6) (dir : Direction) (kv : Bool) (i : Instr),
    i = .kseEnc ∨ i = .kseDec → KeyReady s →
    ∃ t, exec i s = .next t ∧ exec i { s with rk := rk, nr := nr, dir := dir, keyValid := kv } = .next t

/-- 40_key_schedule.md R113, R107: for every value of TABLES the array has exactly `6 * NR(klen)` words. -/
def Obligations.KeyExpandFillsTheWholeArray : Prop :=
  ∀ (tb : Tables) (key : List Byte),
    (key.length = 16 → (keyExpand tb key).2 = 24 ∧ (keyExpand tb key).1.length = 144) ∧
    (key.length = 24 → (keyExpand tb key).2 = 28 ∧ (keyExpand tb key).1.length = 168) ∧
    (key.length = 32 → (keyExpand tb key).2 = 32 ∧ (keyExpand tb key).1.length = 192)

/-- 40_key_schedule.md R104: word `6r + j` is the `j`-th subkey of round `r`, computed from the key state that the
rounds before left, for every value of TABLES. -/
def Obligations.KeyExpandFollowsTheRecurrence : Prop :=
  ∀ (tb : Tables) (key : List Byte) (r j : Nat), keyLenOk key.length = true →
    (keyExpand tb key).2 = roundCount key.length ∧
    (r < roundCount key.length → j < 6 →
      (keyExpand tb key).1.getD (6 * r + j) 0#32 =
        (subKeyList (tb.keyStep key.length r (keyStateAt tb key r)).2).getD j 0#32)

/-- 40_key_schedule.md R102: KCLR completes in every state, ends the instance and clears ERR; it writes no operand
register and no byte of MEM; BLK and PCL are refused after it. RK is unspecified after it. -/
def Obligations.KclrDestroysTheInstance : Prop :=
  decode 0x00000004#32 = .command .kclr ∧
  ∀ s : State, ∃ t, exec .kclr s = .next t ∧
    t.keyValid = false ∧ t.dir = .encrypt ∧ t.nr = 0#6 ∧ t.err = 0#4 ∧
    SameOperands s t ∧ t.mem = s.mem ∧ SameOutside s t ∧
    (∀ xa, exec (.blk xa) t = .refused .noInstance) ∧
    (∀ xb xa ac, exec (.pcl xb xa ac) t = .refused .noInstance)

/-! ## BLK -/

/-- 41_round_engine.md R144: the output block, what BLK leaves alone, when it is refused, and that it is the PCL of
one block. MEM is in canonical form in every state of a run (StepKeepsTheInvariant). -/
def Obligations.BlkTransformsOneBlock : Prop :=
  decode 0x00000002#32 = .command (.blk false) ∧ decode 0x00000202#32 = .command (.blk true) ∧
  ∀ (xa : Bool) (s : State),
    (s.mem.wf = true → BlkReady xa s → ∃ t, exec (.blk xa) s = .next t ∧
      (∀ k < 16, t.mem.readByte (s.operandNat .optr + k) =
        byteAt (if xa
          then xorBytes (transform tables s.dir s.rkAt s.nr.toNat (s.mem.read (s.operandNat .iptr) 16))
            (s.mem.read (s.operandNat .aptr) 16)
          else transform tables s.dir s.rkAt s.nr.toNat (s.mem.read (s.operandNat .iptr) 16)) k) ∧
      (∀ a, ¬ InRange a (s.operandNat .optr) 16 → t.mem.readByte a = s.mem.readByte a) ∧
      t.err = 0#4 ∧ SameInstance s t ∧ SameOperands s t ∧ SameOutside s t) ∧
    (¬ BlkReady xa s → ∃ r, exec (.blk xa) s = .refused r) ∧
    (s.nblk = { value := 1#32, written := true } → exec (.blk xa) s = exec (.pcl false xa false) s)

/-! ## PCL -/

/-- 42_parallel_lanes.md R163 with R166 and 20_memory.md R65: every output block is made from the bytes MEM held
before the command, whatever is written in place of its own input or auxiliary block; nothing else is written. -/
def Obligations.PclTransformsEveryBlock : Prop :=
  ∀ (xb xa ac : Bool) (s : State),
    (s.mem.wf = true → PclReady xb xa ac s → ∃ t, exec (.pcl xb xa ac) s = .next t ∧
      (∀ i < s.blockCount, ∀ k < 16, t.mem.readByte (s.operandNat .optr + 16 * i + k) =
        byteAt (blockResult tables s.dir s.rkAt s.nr.toNat xb xa
          (s.mem.read (s.operandNat .iptr + 16 * i) 16)
          (s.mem.read (s.operandNat .aptr + (if ac then 0 else 16 * i)) 16)) k) ∧
      (∀ a, ¬ InRange a (s.operandNat .optr) (16 * s.blockCount) → t.mem.readByte a = s.mem.readByte a) ∧
      t.err = 0#4 ∧ SameInstance s t ∧ SameOperands s t ∧ SameOutside s t) ∧
    (¬ PclReady xb xa ac s → ∃ r, exec (.pcl xb xa ac) s = .refused r)

/-- 42_parallel_lanes.md R164: PCL with NBLK 0 needs an instance and NBLK, and no pointer register. -/
def Obligations.PclOfNoBlocksTouchesNoMemory : Prop :=
  ∀ (xb xa ac : Bool) (s : State), s.nblk = { value := 0#32, written := true } →
    (s.keyValid = true → ∃ t, exec (.pcl xb xa ac) s = .next t ∧ t.mem = s.mem ∧ t.err = 0#4 ∧
      SameInstance s t ∧ SameOperands s t ∧
      ∀ m : Memory, exec (.pcl xb xa ac) { s with mem := m } = .next { t with mem := m }) ∧
    (s.keyValid = false → exec (.pcl xb xa ac) s = .refused .noInstance)

/-- 42_parallel_lanes.md R173: without XB and XA, AC has no effect and APTR is ignored. -/
def Obligations.AuxiliaryIgnoredWithoutXorFlags : Prop :=
  ∀ s : State,
    exec (.pcl false false true) s = exec (.pcl false false false) s ∧
    ∀ (ac : Bool) (aptr : OperandReg) (t : State), exec (.pcl false false ac) s = .next t →
      exec (.pcl false false ac) { s with aptr := aptr } = .next { t with aptr := aptr }

/-- 42_parallel_lanes.md R167 to R170: for every batch width, the lane groups with their tail leave in MEM what the
command leaves there. -/
def Obligations.LanesComputeTheSameMemory : Prop :=
  ∀ (xb xa ac : Bool) (s : State) (w : Nat), 1 ≤ w → PclReady xb xa ac s →
    ∃ t, exec (.pcl xb xa ac) s = .next t ∧ t.mem = pclByLanes xb xa ac s w s.blockCount

/-- 42_parallel_lanes.md R170: a PCL of N blocks and N commands PCL of one block, one after another, leave the same
MEM and the same instance. The premise that the parameters are legal (part of the invariant) is what makes every
block's address a 32-bit number that the host can write to a pointer register (00_scope.md R11). -/
def Obligations.PclEqualsScalarCommands : Prop :=
  ∀ (xb xa ac : Bool) (s : State), s.params.Legal → PclReady xb xa ac s →
    ∃ t u, exec (.pcl xb xa ac) s = .next t ∧ scalarRun xb xa ac s s.blockCount = .next u ∧
      t.mem = u.mem ∧ SameInstance t u ∧ (0 < s.blockCount → t.err = u.err)

/-- 20_memory.md R58: what independence comes to for two blocks and more, for the input, the advancing and the
constant auxiliary stream; one block and none are always independent. -/
def Obligations.IndependenceIsALayoutCondition : Prop :=
  ∀ (s : State) (n : Nat),
    (n ≤ 1 → ∀ aux ac, independent s aux ac n = true) ∧
    (2 ≤ n →
      (∀ ac, independent s false ac n = true ↔
        (s.operandNat .optr = s.operandNat .iptr ∨
          Apart (s.operandNat .optr) (16 * n) (s.operandNat .iptr) (16 * n))) ∧
      (independent s true false n = true ↔
        (s.operandNat .optr = s.operandNat .iptr ∨
          Apart (s.operandNat .optr) (16 * n) (s.operandNat .iptr) (16 * n)) ∧
        (s.operandNat .optr = s.operandNat .aptr ∨
          Apart (s.operandNat .optr) (16 * n) (s.operandNat .aptr) (16 * n))) ∧
      (independent s true true n = true ↔
        (s.operandNat .optr = s.operandNat .iptr ∨
          Apart (s.operandNat .optr) (16 * n) (s.operandNat .iptr) (16 * n)) ∧
        Apart (s.operandNat .optr) (16 * n) (s.operandNat .aptr) 16))

/-- 42_parallel_lanes.md R175: XOR-after on a decryption instance undoes XOR-before on an encryption instance made
with the same array and auxiliary block, and XOR-before on the one undoes XOR-after on the other. It rests on the
default TABLES (PRESUMED, log entry 6). -/
def Obligations.XorBeforeAndAfterUndoEachOther : Prop :=
  ∀ (rk : Nat → Word) (nr : Nat) (b a : List Byte), b.length = 16 → a.length = 16 →
    blockResult tables .decrypt rk nr false true (blockResult tables .encrypt rk nr true false b a) a = b ∧
    blockResult tables .decrypt rk nr true false (blockResult tables .encrypt rk nr false true b a) a = b

/-! ## The cipher -/

/-- 41_round_engine.md R142, for every value of TABLES with property P2 of R141. -/
def Obligations.DecryptionUndoesEncryption : Prop :=
  ∀ tb : Tables, tb.RoundsInvert → ∀ (rk : Nat → Word) (nr : Nat) (b : List Byte), b.length = 16 →
    decBlock tb rk nr (encBlock tb rk nr b) = b ∧ encBlock tb rk nr (decBlock tb rk nr b) = b

/-- The default value of TABLES (PRESUMED, log entry 6) has property P2 of 41_round_engine.md R141: the sentence of
R139 "The default RoundI inverts the default RoundF, and conversely", which the spec marks as derived. -/
def Obligations.DefaultRoundsInvertEachOther : Prop := tables.RoundsInvert

/-- 00_scope.md R14: the laws of the rotations. -/
def Obligations.RotationsUndoEachOther : Prop :=
  ∀ (a : Word) (n : Nat),
    ror (rol a n) n = a ∧ rol (ror a n) n = a ∧ rol a 32 = a ∧ rol a n = rol a (n % 32) ∧
    rol 0x80000000#32 1 = 0x00000001#32

/-- 20_memory.md R51: byte `k` of a block is at `base + k`, words are little-endian, and the output is serialised in
the same order. -/
def Obligations.BlocksAreLittleEndian : Prop :=
  (∀ (m : Memory) (base k : Nat), k < 16 → byteAt (m.read base 16) k = m.readByte (base + k)) ∧
  (∀ (b : List Byte) (k : Nat), (le32 b k).toNat =
    (byteAt b k).toNat + 2 ^ 8 * (byteAt b (k + 1)).toNat + 2 ^ 16 * (byteAt b (k + 2)).toNat
      + 2 ^ 24 * (byteAt b (k + 3)).toNat) ∧
  (∀ b : List Byte, loadBlock b = ⟨le32 b 0, le32 b 4, le32 b 8, le32 b 12⟩) ∧
  (∀ b : List Byte, b.length = 16 → storeBlock (loadBlock b) = b) ∧
  (∀ x : Words4, loadBlock (storeBlock x) = x) ∧
  loadBlock [0x10#8, 0x11#8, 0x12#8, 0x13#8, 0x14#8, 0x15#8, 0x16#8, 0x17#8,
      0x18#8, 0x19#8, 0x1a#8, 0x1b#8, 0x1c#8, 0x1d#8, 0x1e#8, 0x1f#8] =
    ⟨0x13121110#32, 0x17161514#32, 0x1b1a1918#32, 0x1f1e1d1c#32⟩

/-! ## Frames and outcomes of all commands -/

/-- 10_state.md R42: no command writes an operand register. -/
def Obligations.NoCommandWritesAnOperandRegister : Prop :=
  ∀ (i : Instr) (s t : State), exec i s = .next t →
    t.kptr = s.kptr ∧ t.klen = s.klen ∧ t.iptr = s.iptr ∧ t.aptr = s.aptr ∧ t.optr = s.optr ∧ t.nblk = s.nblk

/-- 20_memory.md R60, R71: KSE.ENC, KSE.DEC and KCLR store nothing, BLK the 16 bytes at OPTR, PCL the `16 * NBLK`
bytes at OPTR; every other byte of MEM reads as before. -/
def Obligations.OnlyOutputBytesAreStored : Prop :=
  ∀ (i : Instr) (s t : State), exec i s = .next t →
    ∀ a, ¬ StoresTo i s a → t.mem.readByte a = s.mem.readByte a

/-- 10_state.md R28 to R31, 41_round_engine.md R144, 42_parallel_lanes.md R174, 70_reset_and_hazards.md R227: BLK and
PCL read the instance and never change it. That no command changes the parameters, the platform's map, the actions to
come or the yielded value is about the model's own fields (log entries 7, 8, 9, 10, 11). -/
def Obligations.TransformsNeverChangeTheInstance : Prop :=
  (∀ (xa : Bool) (s t : State), exec (.blk xa) s = .next t → SameInstance s t) ∧
  (∀ (xb xa ac : Bool) (s t : State), exec (.pcl xb xa ac) s = .next t → SameInstance s t) ∧
  (∀ (i : Instr) (s t : State), exec i s = .next t → SameOutside s t)

/-- 20_memory.md R56: for every address width, a command one of whose regions does not fit in the `2^AW` bytes of MEM
is refused, and a pointer of `2^AW` or more never fits. -/
def Obligations.RegionsPastTheEndAreRefused : Prop :=
  ∀ s : State,
    s.memSize = 2 ^ s.params.addressWidth ∧
    (∀ i, i = .kseEnc ∨ i = .kseDec → keyLenOk (s.operandNat .klen) = true →
      ¬ Fits s (s.operandNat .kptr) (s.operandNat .klen) → ∃ r, exec i s = .refused r) ∧
    (∀ xa, ¬ Fits s (s.operandNat .iptr) 16 ∨ ¬ Fits s (s.operandNat .optr) 16 ∨
        (xa = true ∧ ¬ Fits s (s.operandNat .aptr) 16) → ∃ r, exec (.blk xa) s = .refused r) ∧
    (∀ xb xa ac, 0 < s.blockCount →
      ¬ Fits s (s.operandNat .iptr) (16 * s.blockCount) ∨ ¬ Fits s (s.operandNat .optr) (16 * s.blockCount) ∨
        ((xb || xa) = true ∧ ¬ Fits s (s.operandNat .aptr) (auxSize ac s.blockCount)) →
      ∃ r, exec (.pcl xb xa ac) s = .refused r) ∧
    (∀ (o : Operand) (size : Nat), 0 < size → s.memSize ≤ s.operandNat o → ¬ Fits s (s.operandNat o) size)

/-- 60_exceptions.md R197, R198: a command completes exactly when its preconditions hold and is refused otherwise;
it never faults. -/
def Obligations.CommandsCompleteOrAreRefused : Prop :=
  ∀ (i : Instr) (s : State),
    (Completes i s → ∃ t, exec i s = .next t) ∧ (¬ Completes i s → ∃ r, exec i s = .refused r)

/-- 10_state.md R26: ERR after a completed command, for every command; it is 0 at reset. -/
def Obligations.ErrIsTheOutcomeOfTheLastCommand : Prop :=
  State.reset.err = 0#4 ∧
  ∀ (i : Instr) (s t : State), exec i s = .next t →
    ((i = .kseEnc ∨ i = .kseDec) ∧ keyLenOk (s.operandNat .klen) = false ∧ t.err = 1#4) ∨
    (¬ ((i = .kseEnc ∨ i = .kseDec) ∧ keyLenOk (s.operandNat .klen) = false) ∧ t.err = 0#4)

/-! ## Registers -/

/-- 10_state.md R25: the fields of STATUS, read at any time, their values where the invariant holds, STATUS at reset;
writes are ignored. -/
def Obligations.StatusShowsTheFields : Prop :=
  State.reset.statusWord = 0x00000000#32 ∧
  ∀ s : State,
    (Inv s → (s.statusWord.extractLsb' 8 6 = 0#6 ∨ s.statusWord.extractLsb' 8 6 = 24#6 ∨
      s.statusWord.extractLsb' 8 6 = 28#6 ∨ s.statusWord.extractLsb' 8 6 = 32#6) ∧
      (s.statusWord.extractLsb' 4 4 = 0#4 ∨ s.statusWord.extractLsb' 4 4 = 1#4)) ∧
    s.statusWord.getLsbD 0 = s.keyValid ∧
    s.statusWord.getLsbD 1 = (s.keyValid && s.dir.bit) ∧
    s.statusWord.extractLsb' 2 2 = 0#2 ∧
    s.statusWord.extractLsb' 4 4 = s.err ∧
    s.statusWord.extractLsb' 8 6 = (if s.keyValid then s.nr else 0#6) ∧
    s.statusWord.extractLsb' 14 17 = 0#17 ∧
    s.statusWord.getLsbD 31 = false ∧
    (∀ rest, s.script = .rd .status :: rest →
      step s = .next ((s.taken rest).yielding (.word s.statusWord))) ∧
    (∀ v rest, s.script = .wr .status v :: rest → step s = .next (s.taken rest))

/-- 10_state.md R23: the fields of CAP for every batch width, its value for W = 4, that a read yields it with the batch
width of the machine, and that writes are ignored. -/
def Obligations.CapIsConstant : Prop :=
  (∀ lanes : Nat,
    (capWord lanes).extractLsb' 0 8 = 16#8 ∧
    (capWord lanes).getLsbD 8 = true ∧ (capWord lanes).getLsbD 9 = true ∧ (capWord lanes).getLsbD 10 = true ∧
    (capWord lanes).getLsbD 11 = false ∧
    (capWord lanes).extractLsb' 12 4 = BitVec.ofNat 4 (lanes % 16) ∧
    (capWord lanes).extractLsb' 16 16 = 0#16) ∧
  capWord 4 = 0x00004710#32 ∧
  (∀ (s : State) (rest : List Action), s.script = .rd .cap :: rest →
    step s = .next ((s.taken rest).yielding (.word (capWord s.params.laneCount)))) ∧
  (∀ (s : State) (v : Word) (rest : List Action), s.script = .wr .cap v :: rest → step s = .next (s.taken rest))

/-- 10_state.md R41: what each register access does, and which accesses are refused. -/
def Obligations.RegisterAccessRules : Prop :=
  ∀ (s : State) (rest : List Action) (v : Word),
    (s.script = .wr .cap v :: rest ∨ s.script = .wr .status v :: rest → step s = .next (s.taken rest)) ∧
    (s.script = .rd .cmd :: rest → step s = .next ((s.taken rest).yielding (.word 0#32))) ∧
    (∀ o, s.script = .wr (.operand o) v :: rest → ∃ t, step s = .next t ∧
      t.operand o = { value := v, written := true } ∧ (∀ p, p ≠ o → t.operand p = s.operand p) ∧
      SameInstance s t ∧ t.err = s.err ∧ t.mem = s.mem) ∧
    (∀ offset width, width ≠ 32 ∨ offset % 4 ≠ 0 ∨ 0x24 ≤ offset →
      s.script = .regWrite offset width v :: rest ∨ s.script = .regRead offset width :: rest →
      step s = .refused (.badRegisterAccess offset width))

/-- 10_state.md R21, R39, 60_exceptions.md R197 (h): an operand register reads as what the host last wrote, and is
refused while it was never written since reset. -/
def Obligations.OperandReadsNeedAWrite : Prop :=
  ∀ (s : State) (o : Operand) (rest : List Action), s.script = .rd (.operand o) :: rest →
    ((s.operand o).written = true →
      step s = .next ((s.taken rest).yielding (.word (s.operand o).value))) ∧
    ((s.operand o).written = false → step s = .refused (.operandNotWritten o))

/-- 10_state.md R27, R33, 60_exceptions.md R205: no register read depends on RK or on the transient state. -/
def Obligations.SubkeysAreUnreadable : Prop :=
  ∀ (s : State) (offset width : Nat) (rest : List Action) (rk : Vector Word 192) (tr : Transient),
    s.script = .regRead offset width :: rest →
    (∀ t, step s = .next t → step { s with rk := rk, transient := tr } = .next { t with rk := rk, transient := tr }) ∧
    (∀ r, step s = .refused r → step { s with rk := rk, transient := tr } = .refused r)

/-! ## MEM and the host -/

/-- 20_memory.md R50, R66, 30_encoding.md R88: a host write of plain MEM stores its bytes and nothing else, and the
next host read sees them. -/
def Obligations.HostWritesAreStored : Prop :=
  ∀ (s : State) (addr : Nat) (bytes : List Byte) (rest : List Action),
    s.script = .memWrite addr bytes :: rest → s.mem.wf = true →
    Fits s addr bytes.length → PlainRegion s addr bytes.length →
    ∃ t, step s = .next t ∧
      (∀ k < bytes.length, t.mem.readByte (addr + k) = byteAt bytes k) ∧
      (∀ a, ¬ InRange a addr bytes.length → t.mem.readByte a = s.mem.readByte a) ∧
      SameOperands s t ∧ SameInstance s t ∧ t.err = s.err ∧ t.script = rest ∧
      ∀ rest', step { t with script := .memRead addr bytes.length :: rest' } =
        .next (({ t with script := rest' } : State).yielding (.bytes bytes))

/-- The model's own (log entry 15): a host access past the end of MEM faults, one that touches a device or a hole is
refused. -/
def Obligations.HostAccessesOutsidePlainMemoryStop : Prop :=
  ∀ (s : State) (addr n : Nat) (bytes : List Byte) (rest : List Action), bytes.length = n →
    s.script = .memWrite addr bytes :: rest ∨ s.script = .memRead addr n :: rest →
    (¬ Fits s addr n → step s = .fault (.noSuchAddress addr n)) ∧
    (Fits s addr n → ¬ PlainRegion s addr n → step s = .refused (.hostAccessNotPlain addr n))

/-! ## Reset and the invariant -/

/-- 10_state.md R39, 70_reset_and_hazards.md R220: what reset leaves, as far as the spec gives it. -/
def Obligations.ResetLeavesNoInstance : Prop :=
  State.reset.keyValid = false ∧ State.reset.dir = .encrypt ∧ State.reset.nr = 0#6 ∧ State.reset.err = 0#4 ∧
  State.reset.statusWord = 0x00000000#32 ∧ ∀ o, (State.reset.operand o).written = false

/-- 70_reset_and_hazards.md R220: the platform's reset, from any state, leaves what R39 gives a value. That the reset
is an event on the script is the model's choice (log entry 12). -/
def Obligations.PlatformResetEndsTheInstance : Prop :=
  ∀ (s : State) (rest : List Action), s.script = .platformReset :: rest →
    ∃ t, step s = .next t ∧ t.keyValid = false ∧ t.dir = .encrypt ∧ t.nr = 0#6 ∧ t.err = 0#4 ∧
      t.statusWord = 0x00000000#32 ∧ (∀ o, (t.operand o).written = false) ∧ t.script = rest

/-- The invariant holds at reset. -/
def Obligations.InvariantHoldsAtReset : Prop := Inv State.reset

/-- 00_scope.md R10, R11: AW and W are parameters of a CORE: no step, a reset among them, changes them. That State holds
them, and the platform's map beside them, is the model's choice (log entries 7, 8, 11). -/
def Obligations.ParametersNeverChange : Prop :=
  ∀ s t : State, step s = .next t → t.params = s.params ∧ t.platform = s.platform

/-- 00_scope.md R10, R11, 10_state.md R25, R26, R29, R30, R38: every step keeps the invariant: AW
and W legal, W lanes, MEM in canonical form and inside its address space, NR a
legal round count with an instance and 0 without one, DIR 0 without one, ERR 0 or 1. -/
def Obligations.StepKeepsTheInvariant : Prop :=
  ∀ s t : State, Inv s → step s = .next t → Inv t
end

