-- ==== Sys2Proof/Laws/Cipher.lean ====
section
/-! SUPPORT. The sizes the cipher's functions keep: blocks of 16 bytes, arrays of six words a round
(40_key_schedule.md R107, R113).
-/

namespace Sys2Proof.Machine

@[simp] theorem length_st32 (w : Word) : (st32 w).length = 4 := rfl

@[simp] theorem length_storeBlock (x : Words4) : (storeBlock x).length = 16 := rfl

@[simp] theorem length_xorBytes (a b : List Byte) : (xorBytes a b).length = min a.length b.length := by
  simp [xorBytes]

@[simp] theorem length_transform (tb : Tables) (dir : Direction) (rk : Nat → Word) (nr : Nat) (b : List Byte) :
    (transform tb dir rk nr b).length = 16 := by
  cases dir <;> rfl

/-- A block's result has 16 bytes, whichever flags are set, when the auxiliary block has 16 where it is used. -/
theorem length_blockResult (tb : Tables) (dir : Direction) (rk : Nat → Word) (nr : Nat) (xb xa : Bool)
    (input aux : List Byte) (h : xa = true → aux.length = 16) :
    (blockResult tb dir rk nr xb xa input aux).length = 16 := by
  cases xa
  · simp [blockResult]
  · simp [blockResult, h rfl]

@[simp] theorem length_subKeyList (k : SubKeys) : (subKeyList k).length = 6 := rfl

/-- Every round gives six subkeys, for every value of TABLES. -/
theorem length_expandRounds (tb : Tables) (klen n r : Nat) (t : List Word) :
    (expandRounds tb klen n r t).length = 6 * n := by
  induction n generalizing r t with
  | zero => rfl
  | succ n ih =>
    simp only [expandRounds, List.length_append, length_subKeyList, ih]
    omega

/-- The accepted key lengths are 16, 24 and 32 (R103). -/
theorem keyLenOk_iff (klen : Nat) : keyLenOk klen = true ↔ klen = 16 ∨ klen = 24 ∨ klen = 32 := by
  simp [keyLenOk, or_assoc]

/-- The round counts of the accepted key lengths (R107). -/
theorem roundCount_of_ok (klen : Nat) (h : keyLenOk klen = true) :
    (klen = 16 ∧ roundCount klen = 24) ∨ (klen = 24 ∧ roundCount klen = 28) ∨
    (klen = 32 ∧ roundCount klen = 32) := by
  rcases (keyLenOk_iff klen).mp h with rfl | rfl | rfl <;> simp [roundCount]

/-- The array never outgrows RK (00_scope.md R8). -/
theorem roundCount_le (klen : Nat) : roundCount klen ≤ 32 := by
  unfold roundCount
  split <;> [omega; (split <;> [omega; (split <;> omega)])]

end Sys2Proof.Machine
end

