-- ==== Sys2Proof/Laws/Memory.lean ====
section
/-! SUPPORT. The laws of MEM: a read after a write to the same place gives the value written, a write leaves every
other place alone, and every memory operation keeps the canonical form.
-/

namespace Sys2Proof.Machine

/-- A write leaves every other address alone. -/
theorem Memory.readByte_writeByte_ne (m : Memory) {a b : Nat} (v : Byte) (h : b ≠ a) :
    (m.writeByte a v).readByte b = m.readByte b := by
  induction m with
  | nil =>
    by_cases hv : v = unlistedByte <;> simp [Memory.writeByte, Memory.readByte, hv, h]
  | cons c rest ih =>
    obtain ⟨x, u⟩ := c
    by_cases hlt : a < x
    · by_cases hv : v = unlistedByte <;> simp [Memory.writeByte, Memory.readByte, hlt, hv, h]
    · by_cases hax : a = x
      · subst hax
        by_cases hv : v = unlistedByte <;> simp [Memory.writeByte, Memory.readByte, hv, h]
      · simp [Memory.writeByte, Memory.readByte, hlt, hax, ih]

/-- In a canonical memory no entry after the first has an address up to the first's. -/
theorem Memory.readByte_of_all_lt (m : Memory) (a : Nat) (h : ∀ c ∈ m, a < c.1) : m.readByte a = unlistedByte := by
  induction m with
  | nil => rfl
  | cons c rest ih =>
    obtain ⟨x, u⟩ := c
    have hx : a ≠ x := by
      have := h (x, u) (by simp)
      simp only at this
      omega
    simp only [Memory.readByte, if_neg hx]
    exact ih fun c hc => h c (by simp [hc])

/-- The parts of the canonical form of a memory with a first entry. -/
theorem Memory.wf_cons (a : Nat) (v : Byte) (rest : Memory) :
    Memory.wf ((a, v) :: rest) = true ↔
      v ≠ unlistedByte ∧ (∀ c ∈ rest, a < c.1) ∧ Memory.wf rest = true := by
  simp [Memory.wf, and_assoc]

/-- A read after a write to the same address gives the byte written. -/
theorem Memory.readByte_writeByte_self (m : Memory) (a : Nat) (v : Byte) (hm : m.wf = true) :
    (m.writeByte a v).readByte a = v := by
  induction m with
  | nil => by_cases hv : v = unlistedByte <;> simp [Memory.writeByte, Memory.readByte, hv]
  | cons c rest ih =>
    obtain ⟨x, u⟩ := c
    obtain ⟨_, hall, hrest⟩ := (Memory.wf_cons x u rest).mp hm
    by_cases hlt : a < x
    · by_cases hv : v = unlistedByte
      · have hr : Memory.readByte rest a = unlistedByte :=
          Memory.readByte_of_all_lt rest a fun c hc => lt_trans hlt (hall c hc)
        have hne : a ≠ x := by omega
        simp [Memory.writeByte, Memory.readByte, hlt, hv, hne, hr]
      · simp [Memory.writeByte, Memory.readByte, hlt, hv]
    · by_cases hax : a = x
      · subst hax
        by_cases hv : v = unlistedByte
        · simp [Memory.writeByte, hv, Memory.readByte_of_all_lt rest a hall]
        · simp [Memory.writeByte, Memory.readByte, hv]
      · simp [Memory.writeByte, Memory.readByte, hlt, hax, ih hrest]

/-- Every address listed after a write was listed before or is the address written. -/
theorem Memory.mem_writeByte (m : Memory) (a : Nat) (v : Byte) {c : Host.Cell} (h : c ∈ m.writeByte a v) :
    c ∈ m ∨ c.1 = a := by
  induction m with
  | nil =>
    by_cases hv : v = unlistedByte
    · simp [Memory.writeByte, hv] at h
    · simp only [Memory.writeByte, if_neg hv, List.mem_singleton] at h
      exact .inr (by rw [h])
  | cons d rest ih =>
    obtain ⟨x, u⟩ := d
    simp only [Memory.writeByte] at h
    split at h
    · split at h
      · exact .inl h
      · rcases List.mem_cons.mp h with h | h
        · exact .inr (by rw [h])
        · exact .inl h
    · split at h
      · split at h
        · exact .inl (List.mem_cons_of_mem _ h)
        · rcases List.mem_cons.mp h with h | h
          · exact .inr (by rw [h])
          · exact .inl (List.mem_cons_of_mem _ h)
      · rcases List.mem_cons.mp h with h | h
        · exact .inl (by simp [h])
        · rcases ih h with h | h
          · exact .inl (List.mem_cons_of_mem _ h)
          · exact .inr h

/-- A write of one byte keeps the canonical form. -/
theorem Memory.wf_writeByte (m : Memory) (a : Nat) (v : Byte) (hm : m.wf = true) :
    (m.writeByte a v).wf = true := by
  induction m with
  | nil =>
    by_cases hv : v = unlistedByte
    · simp [Memory.writeByte, hv, Memory.wf]
    · simp [Memory.writeByte, hv, Memory.wf]
  | cons c rest ih =>
    obtain ⟨x, u⟩ := c
    obtain ⟨hu, hall, hrest⟩ := (Memory.wf_cons x u rest).mp hm
    simp only [Memory.writeByte]
    split
    · rename_i hlt
      split
      · exact hm
      · rename_i hv
        refine (Memory.wf_cons _ _ _).mpr ⟨hv, ?_, hm⟩
        intro c hc
        rcases List.mem_cons.mp hc with h | h
        · rw [h]; exact hlt
        · exact lt_trans hlt (hall c h)
    · rename_i hlt
      split
      · rename_i hax
        subst hax
        split
        · exact hrest
        · rename_i hv
          exact (Memory.wf_cons _ _ _).mpr ⟨hv, hall, hrest⟩
      · rename_i hax
        refine (Memory.wf_cons _ _ _).mpr ⟨hu, ?_, ih hrest⟩
        intro c hc
        rcases Memory.mem_writeByte rest a v hc with h | h
        · exact hall c h
        · rw [h]; omega

/-- A write of several bytes leaves every address outside them alone. -/
theorem Memory.readByte_write_outside (b : List Byte) (m : Memory) {addr a : Nat}
    (h : a < addr ∨ addr + b.length ≤ a) : (m.write addr b).readByte a = m.readByte a := by
  induction b generalizing m addr with
  | nil => rfl
  | cons v rest ih =>
    simp only [List.length_cons] at h
    rw [Memory.write, ih (m.writeByte addr v) (by omega), Memory.readByte_writeByte_ne m v (by omega)]

/-- A write of several bytes keeps the canonical form. -/
theorem Memory.wf_write (b : List Byte) (m : Memory) (addr : Nat) (hm : m.wf = true) :
    (m.write addr b).wf = true := by
  induction b generalizing m addr with
  | nil => exact hm
  | cons v rest ih => exact ih (m.writeByte addr v) (addr + 1) (Memory.wf_writeByte m addr v hm)

/-- Being below a size, entry by entry. -/
theorem Memory.below_iff (size : Nat) (m : Memory) : m.below size = true ↔ ∀ c ∈ m, c.1 < size := by
  simp [Memory.below]

/-- A write of one byte below a size keeps a memory below it. -/
theorem Memory.below_writeByte {size : Nat} (m : Memory) (a : Nat) (v : Byte) (hm : m.below size = true)
    (ha : a < size) : (m.writeByte a v).below size = true := by
  rw [Memory.below_iff] at hm ⊢
  intro c hc
  rcases Memory.mem_writeByte m a v hc with h | h
  · exact hm c h
  · rw [h]; exact ha

/-- A write of several bytes below a size keeps a memory below it. -/
theorem Memory.below_write {size : Nat} (b : List Byte) (m : Memory) (addr : Nat) (hm : m.below size = true)
    (h : addr + b.length ≤ size) : (m.write addr b).below size = true := by
  induction b generalizing m addr with
  | nil => exact hm
  | cons v rest ih =>
    simp only [List.length_cons] at h
    exact ih (m.writeByte addr v) (addr + 1) (Memory.below_writeByte m addr v hm (by omega)) (by omega)

/-- A read of one of the bytes written gives that byte. -/
theorem Memory.readByte_write_inside (b : List Byte) (m : Memory) (addr k : Nat) (hm : m.wf = true)
    (hk : k < b.length) :
    (m.write addr b).readByte (addr + k) = byteAt b k := by
  induction b generalizing m addr k with
  | nil => simp at hk
  | cons v rest ih =>
    simp only [List.length_cons] at hk
    have hw : (m.writeByte addr v).wf = true := Memory.wf_writeByte m addr v hm
    cases k with
    | zero =>
      rw [Memory.write, Memory.readByte_write_outside rest _ (by omega), Nat.add_zero,
        Memory.readByte_writeByte_self m addr v hm]
      rfl
    | succ k =>
      have := ih (m.writeByte addr v) (addr + 1) k hw (by omega)
      rw [Memory.write, show addr + (k + 1) = addr + 1 + k by omega, this]
      rfl

@[simp] theorem Memory.length_read (m : Memory) (addr n : Nat) : (m.read addr n).length = n := by
  simp [Memory.read]

/-- Byte `k` of a read. -/
theorem Memory.byteAt_read (m : Memory) (addr n k : Nat) (h : k < n) :
    byteAt (m.read addr n) k = m.readByte (addr + k) := by
  simp [byteAt, Memory.read, h]

/-- A read depends only on the bytes it reads. -/
theorem Memory.read_congr {m m' : Memory} {addr n : Nat}
    (h : ∀ k < n, m.readByte (addr + k) = m'.readByte (addr + k)) : m.read addr n = m'.read addr n := by
  simp only [Memory.read]
  exact List.map_congr_left fun k hk => h k (List.mem_range.mp hk)

/-- A read of bytes that a write does not touch gives what it gave before. -/
theorem Memory.read_write_apart (b : List Byte) (m : Memory) {addr base n : Nat}
    (h : base + n ≤ addr ∨ addr + b.length ≤ base) : (m.write addr b).read base n = m.read base n :=
  Memory.read_congr fun k hk => Memory.readByte_write_outside b m (by omega)

/-- The memory made of given cells is canonical and below the size. -/
theorem Memory.wf_ofCells (size : Nat) (cells : List (Nat × Byte)) :
    (Memory.ofCells size cells).wf = true ∧ (Memory.ofCells size cells).below size = true := by
  have key : ∀ (l : List (Nat × Byte)) (m : Memory), m.wf = true ∧ m.below size = true →
      (l.foldl (fun m c => if c.1 < size then m.writeByte c.1 c.2 else m) m).wf = true ∧
      Memory.below size (l.foldl (fun m c => if c.1 < size then m.writeByte c.1 c.2 else m) m) = true := by
    intro l
    induction l with
    | nil => exact fun m hm => hm
    | cons c rest ih =>
      intro m hm
      refine ih _ ?_
      dsimp only
      split
      · exact ⟨Memory.wf_writeByte m c.1 c.2 hm.1, Memory.below_writeByte m c.1 c.2 hm.2 ‹_›⟩
      · exact hm
  exact key cells [] ⟨rfl, rfl⟩

/-- The memory after reset is canonical and inside MEM. -/
theorem State.reset_mem_wf :
    State.reset.mem.wf = true ∧ Memory.below State.reset.memSize State.reset.mem = true := ⟨rfl, rfl⟩

end Sys2Proof.Machine
end

