-- ==== Sys2Proof/Laws/State.lean ====
section
/-! SUPPORT. One lemma per field per update of State, true by unfolding the update once, so that no later proof
unfolds a record update.
-/

namespace Sys2Proof.Machine

/-! The operand registers by name. -/

@[simp] theorem State.operand_kptr (s : State) : s.operand .kptr = s.kptr := rfl
@[simp] theorem State.operand_klen (s : State) : s.operand .klen = s.klen := rfl
@[simp] theorem State.operand_iptr (s : State) : s.operand .iptr = s.iptr := rfl
@[simp] theorem State.operand_aptr (s : State) : s.operand .aptr = s.aptr := rfl
@[simp] theorem State.operand_optr (s : State) : s.operand .optr = s.optr := rfl
@[simp] theorem State.operand_nblk (s : State) : s.operand .nblk = s.nblk := rfl

/-! `State.withErr` -/

@[simp] theorem State.withErr_kptr (s : State) (code : BitVec 4) : (s.withErr code).kptr = s.kptr := rfl
@[simp] theorem State.withErr_klen (s : State) (code : BitVec 4) : (s.withErr code).klen = s.klen := rfl
@[simp] theorem State.withErr_iptr (s : State) (code : BitVec 4) : (s.withErr code).iptr = s.iptr := rfl
@[simp] theorem State.withErr_aptr (s : State) (code : BitVec 4) : (s.withErr code).aptr = s.aptr := rfl
@[simp] theorem State.withErr_optr (s : State) (code : BitVec 4) : (s.withErr code).optr = s.optr := rfl
@[simp] theorem State.withErr_nblk (s : State) (code : BitVec 4) : (s.withErr code).nblk = s.nblk := rfl
@[simp] theorem State.withErr_keyValid (s : State) (code : BitVec 4) : (s.withErr code).keyValid = s.keyValid := rfl
@[simp] theorem State.withErr_dir (s : State) (code : BitVec 4) : (s.withErr code).dir = s.dir := rfl
@[simp] theorem State.withErr_nr (s : State) (code : BitVec 4) : (s.withErr code).nr = s.nr := rfl
@[simp] theorem State.withErr_err (s : State) (code : BitVec 4) : (s.withErr code).err = code := rfl
@[simp] theorem State.withErr_rk (s : State) (code : BitVec 4) : (s.withErr code).rk = s.rk := rfl
@[simp] theorem State.withErr_transient (s : State) (code : BitVec 4) : (s.withErr code).transient = s.transient := rfl
@[simp] theorem State.withErr_mem (s : State) (code : BitVec 4) : (s.withErr code).mem = s.mem := rfl
@[simp] theorem State.withErr_platform (s : State) (code : BitVec 4) : (s.withErr code).platform = s.platform := rfl
@[simp] theorem State.withErr_params (s : State) (code : BitVec 4) : (s.withErr code).params = s.params := rfl
@[simp] theorem State.withErr_script (s : State) (code : BitVec 4) : (s.withErr code).script = s.script := rfl
@[simp] theorem State.withErr_yielded (s : State) (code : BitVec 4) : (s.withErr code).yielded = s.yielded := rfl
@[simp] theorem State.withErr_draws (s : State) (code : BitVec 4) : (s.withErr code).draws = s.draws := rfl

/-! `State.withMem` -/

@[simp] theorem State.withMem_kptr (s : State) (m : Memory) : (s.withMem m).kptr = s.kptr := rfl
@[simp] theorem State.withMem_klen (s : State) (m : Memory) : (s.withMem m).klen = s.klen := rfl
@[simp] theorem State.withMem_iptr (s : State) (m : Memory) : (s.withMem m).iptr = s.iptr := rfl
@[simp] theorem State.withMem_aptr (s : State) (m : Memory) : (s.withMem m).aptr = s.aptr := rfl
@[simp] theorem State.withMem_optr (s : State) (m : Memory) : (s.withMem m).optr = s.optr := rfl
@[simp] theorem State.withMem_nblk (s : State) (m : Memory) : (s.withMem m).nblk = s.nblk := rfl
@[simp] theorem State.withMem_keyValid (s : State) (m : Memory) : (s.withMem m).keyValid = s.keyValid := rfl
@[simp] theorem State.withMem_dir (s : State) (m : Memory) : (s.withMem m).dir = s.dir := rfl
@[simp] theorem State.withMem_nr (s : State) (m : Memory) : (s.withMem m).nr = s.nr := rfl
@[simp] theorem State.withMem_err (s : State) (m : Memory) : (s.withMem m).err = s.err := rfl
@[simp] theorem State.withMem_rk (s : State) (m : Memory) : (s.withMem m).rk = s.rk := rfl
@[simp] theorem State.withMem_transient (s : State) (m : Memory) : (s.withMem m).transient = s.transient := rfl
@[simp] theorem State.withMem_mem (s : State) (m : Memory) : (s.withMem m).mem = m := rfl
@[simp] theorem State.withMem_platform (s : State) (m : Memory) : (s.withMem m).platform = s.platform := rfl
@[simp] theorem State.withMem_params (s : State) (m : Memory) : (s.withMem m).params = s.params := rfl
@[simp] theorem State.withMem_script (s : State) (m : Memory) : (s.withMem m).script = s.script := rfl
@[simp] theorem State.withMem_yielded (s : State) (m : Memory) : (s.withMem m).yielded = s.yielded := rfl
@[simp] theorem State.withMem_draws (s : State) (m : Memory) : (s.withMem m).draws = s.draws := rfl

/-! `State.install` -/

@[simp] theorem State.install_kptr (s : State) (d : Direction) (rk : List Word) (nr : Nat) : (s.install d rk nr).kptr = s.kptr := rfl
@[simp] theorem State.install_klen (s : State) (d : Direction) (rk : List Word) (nr : Nat) : (s.install d rk nr).klen = s.klen := rfl
@[simp] theorem State.install_iptr (s : State) (d : Direction) (rk : List Word) (nr : Nat) : (s.install d rk nr).iptr = s.iptr := rfl
@[simp] theorem State.install_aptr (s : State) (d : Direction) (rk : List Word) (nr : Nat) : (s.install d rk nr).aptr = s.aptr := rfl
@[simp] theorem State.install_optr (s : State) (d : Direction) (rk : List Word) (nr : Nat) : (s.install d rk nr).optr = s.optr := rfl
@[simp] theorem State.install_nblk (s : State) (d : Direction) (rk : List Word) (nr : Nat) : (s.install d rk nr).nblk = s.nblk := rfl
@[simp] theorem State.install_keyValid (s : State) (d : Direction) (rk : List Word) (nr : Nat) : (s.install d rk nr).keyValid = true := rfl
@[simp] theorem State.install_dir (s : State) (d : Direction) (rk : List Word) (nr : Nat) : (s.install d rk nr).dir = d := rfl
@[simp] theorem State.install_nr (s : State) (d : Direction) (rk : List Word) (nr : Nat) : (s.install d rk nr).nr = BitVec.ofNat 6 nr := rfl
@[simp] theorem State.install_err (s : State) (d : Direction) (rk : List Word) (nr : Nat) : (s.install d rk nr).err = s.err := rfl
@[simp] theorem State.install_rk (s : State) (d : Direction) (rk : List Word) (nr : Nat) : (s.install d rk nr).rk = installedRk s.draws rk := rfl
@[simp] theorem State.install_transient (s : State) (d : Direction) (rk : List Word) (nr : Nat) : (s.install d rk nr).transient = s.transient := rfl
@[simp] theorem State.install_mem (s : State) (d : Direction) (rk : List Word) (nr : Nat) : (s.install d rk nr).mem = s.mem := rfl
@[simp] theorem State.install_platform (s : State) (d : Direction) (rk : List Word) (nr : Nat) : (s.install d rk nr).platform = s.platform := rfl
@[simp] theorem State.install_params (s : State) (d : Direction) (rk : List Word) (nr : Nat) : (s.install d rk nr).params = s.params := rfl
@[simp] theorem State.install_script (s : State) (d : Direction) (rk : List Word) (nr : Nat) : (s.install d rk nr).script = s.script := rfl
@[simp] theorem State.install_yielded (s : State) (d : Direction) (rk : List Word) (nr : Nat) : (s.install d rk nr).yielded = s.yielded := rfl
@[simp] theorem State.install_draws (s : State) (d : Direction) (rk : List Word) (nr : Nat) : (s.install d rk nr).draws = s.draws := rfl

/-! `State.destroy` -/

@[simp] theorem State.destroy_kptr (s : State) : (s.destroy).kptr = s.kptr := rfl
@[simp] theorem State.destroy_klen (s : State) : (s.destroy).klen = s.klen := rfl
@[simp] theorem State.destroy_iptr (s : State) : (s.destroy).iptr = s.iptr := rfl
@[simp] theorem State.destroy_aptr (s : State) : (s.destroy).aptr = s.aptr := rfl
@[simp] theorem State.destroy_optr (s : State) : (s.destroy).optr = s.optr := rfl
@[simp] theorem State.destroy_nblk (s : State) : (s.destroy).nblk = s.nblk := rfl
@[simp] theorem State.destroy_keyValid (s : State) : (s.destroy).keyValid = false := rfl
@[simp] theorem State.destroy_dir (s : State) : (s.destroy).dir = .encrypt := rfl
@[simp] theorem State.destroy_nr (s : State) : (s.destroy).nr = 0#6 := rfl
@[simp] theorem State.destroy_err (s : State) : (s.destroy).err = s.err := rfl
@[simp] theorem State.destroy_rk (s : State) : (s.destroy).rk = freeRk s.draws := rfl
@[simp] theorem State.destroy_transient (s : State) : (s.destroy).transient = s.transient := rfl
@[simp] theorem State.destroy_mem (s : State) : (s.destroy).mem = s.mem := rfl
@[simp] theorem State.destroy_platform (s : State) : (s.destroy).platform = s.platform := rfl
@[simp] theorem State.destroy_params (s : State) : (s.destroy).params = s.params := rfl
@[simp] theorem State.destroy_script (s : State) : (s.destroy).script = s.script := rfl
@[simp] theorem State.destroy_yielded (s : State) : (s.destroy).yielded = s.yielded := rfl
@[simp] theorem State.destroy_draws (s : State) : (s.destroy).draws = s.draws + 1 := rfl

/-! `State.dropTransient` -/

@[simp] theorem State.dropTransient_kptr (s : State) : (s.dropTransient).kptr = s.kptr := rfl
@[simp] theorem State.dropTransient_klen (s : State) : (s.dropTransient).klen = s.klen := rfl
@[simp] theorem State.dropTransient_iptr (s : State) : (s.dropTransient).iptr = s.iptr := rfl
@[simp] theorem State.dropTransient_aptr (s : State) : (s.dropTransient).aptr = s.aptr := rfl
@[simp] theorem State.dropTransient_optr (s : State) : (s.dropTransient).optr = s.optr := rfl
@[simp] theorem State.dropTransient_nblk (s : State) : (s.dropTransient).nblk = s.nblk := rfl
@[simp] theorem State.dropTransient_keyValid (s : State) : (s.dropTransient).keyValid = s.keyValid := rfl
@[simp] theorem State.dropTransient_dir (s : State) : (s.dropTransient).dir = s.dir := rfl
@[simp] theorem State.dropTransient_nr (s : State) : (s.dropTransient).nr = s.nr := rfl
@[simp] theorem State.dropTransient_err (s : State) : (s.dropTransient).err = s.err := rfl
@[simp] theorem State.dropTransient_rk (s : State) : (s.dropTransient).rk = s.rk := rfl
@[simp] theorem State.dropTransient_transient (s : State) : (s.dropTransient).transient = freeTransient s.params.laneCount s.draws := rfl
@[simp] theorem State.dropTransient_mem (s : State) : (s.dropTransient).mem = s.mem := rfl
@[simp] theorem State.dropTransient_platform (s : State) : (s.dropTransient).platform = s.platform := rfl
@[simp] theorem State.dropTransient_params (s : State) : (s.dropTransient).params = s.params := rfl
@[simp] theorem State.dropTransient_script (s : State) : (s.dropTransient).script = s.script := rfl
@[simp] theorem State.dropTransient_yielded (s : State) : (s.dropTransient).yielded = s.yielded := rfl
@[simp] theorem State.dropTransient_draws (s : State) : (s.dropTransient).draws = s.draws + 1 := rfl

/-! `State.taken` -/

@[simp] theorem State.taken_kptr (s : State) (rest : List Action) : (s.taken rest).kptr = s.kptr := rfl
@[simp] theorem State.taken_klen (s : State) (rest : List Action) : (s.taken rest).klen = s.klen := rfl
@[simp] theorem State.taken_iptr (s : State) (rest : List Action) : (s.taken rest).iptr = s.iptr := rfl
@[simp] theorem State.taken_aptr (s : State) (rest : List Action) : (s.taken rest).aptr = s.aptr := rfl
@[simp] theorem State.taken_optr (s : State) (rest : List Action) : (s.taken rest).optr = s.optr := rfl
@[simp] theorem State.taken_nblk (s : State) (rest : List Action) : (s.taken rest).nblk = s.nblk := rfl
@[simp] theorem State.taken_keyValid (s : State) (rest : List Action) : (s.taken rest).keyValid = s.keyValid := rfl
@[simp] theorem State.taken_dir (s : State) (rest : List Action) : (s.taken rest).dir = s.dir := rfl
@[simp] theorem State.taken_nr (s : State) (rest : List Action) : (s.taken rest).nr = s.nr := rfl
@[simp] theorem State.taken_err (s : State) (rest : List Action) : (s.taken rest).err = s.err := rfl
@[simp] theorem State.taken_rk (s : State) (rest : List Action) : (s.taken rest).rk = s.rk := rfl
@[simp] theorem State.taken_transient (s : State) (rest : List Action) : (s.taken rest).transient = s.transient := rfl
@[simp] theorem State.taken_mem (s : State) (rest : List Action) : (s.taken rest).mem = s.mem := rfl
@[simp] theorem State.taken_platform (s : State) (rest : List Action) : (s.taken rest).platform = s.platform := rfl
@[simp] theorem State.taken_params (s : State) (rest : List Action) : (s.taken rest).params = s.params := rfl
@[simp] theorem State.taken_script (s : State) (rest : List Action) : (s.taken rest).script = rest := rfl
@[simp] theorem State.taken_yielded (s : State) (rest : List Action) : (s.taken rest).yielded = .nothing := rfl
@[simp] theorem State.taken_draws (s : State) (rest : List Action) : (s.taken rest).draws = s.draws := rfl

/-! `State.yielding` -/

@[simp] theorem State.yielding_kptr (s : State) (y : Yield) : (s.yielding y).kptr = s.kptr := rfl
@[simp] theorem State.yielding_klen (s : State) (y : Yield) : (s.yielding y).klen = s.klen := rfl
@[simp] theorem State.yielding_iptr (s : State) (y : Yield) : (s.yielding y).iptr = s.iptr := rfl
@[simp] theorem State.yielding_aptr (s : State) (y : Yield) : (s.yielding y).aptr = s.aptr := rfl
@[simp] theorem State.yielding_optr (s : State) (y : Yield) : (s.yielding y).optr = s.optr := rfl
@[simp] theorem State.yielding_nblk (s : State) (y : Yield) : (s.yielding y).nblk = s.nblk := rfl
@[simp] theorem State.yielding_keyValid (s : State) (y : Yield) : (s.yielding y).keyValid = s.keyValid := rfl
@[simp] theorem State.yielding_dir (s : State) (y : Yield) : (s.yielding y).dir = s.dir := rfl
@[simp] theorem State.yielding_nr (s : State) (y : Yield) : (s.yielding y).nr = s.nr := rfl
@[simp] theorem State.yielding_err (s : State) (y : Yield) : (s.yielding y).err = s.err := rfl
@[simp] theorem State.yielding_rk (s : State) (y : Yield) : (s.yielding y).rk = s.rk := rfl
@[simp] theorem State.yielding_transient (s : State) (y : Yield) : (s.yielding y).transient = s.transient := rfl
@[simp] theorem State.yielding_mem (s : State) (y : Yield) : (s.yielding y).mem = s.mem := rfl
@[simp] theorem State.yielding_platform (s : State) (y : Yield) : (s.yielding y).platform = s.platform := rfl
@[simp] theorem State.yielding_params (s : State) (y : Yield) : (s.yielding y).params = s.params := rfl
@[simp] theorem State.yielding_script (s : State) (y : Yield) : (s.yielding y).script = s.script := rfl
@[simp] theorem State.yielding_yielded (s : State) (y : Yield) : (s.yielding y).yielded = y := rfl
@[simp] theorem State.yielding_draws (s : State) (y : Yield) : (s.yielding y).draws = s.draws := rfl

/-! `State.resetByPlatform` -/

@[simp] theorem State.resetByPlatform_kptr (s : State) : (s.resetByPlatform).kptr = freeOperand s.draws 0 := rfl
@[simp] theorem State.resetByPlatform_klen (s : State) : (s.resetByPlatform).klen = freeOperand s.draws 1 := rfl
@[simp] theorem State.resetByPlatform_iptr (s : State) : (s.resetByPlatform).iptr = freeOperand s.draws 2 := rfl
@[simp] theorem State.resetByPlatform_aptr (s : State) : (s.resetByPlatform).aptr = freeOperand s.draws 3 := rfl
@[simp] theorem State.resetByPlatform_optr (s : State) : (s.resetByPlatform).optr = freeOperand s.draws 4 := rfl
@[simp] theorem State.resetByPlatform_nblk (s : State) : (s.resetByPlatform).nblk = freeOperand s.draws 5 := rfl
@[simp] theorem State.resetByPlatform_keyValid (s : State) : (s.resetByPlatform).keyValid = false := rfl
@[simp] theorem State.resetByPlatform_dir (s : State) : (s.resetByPlatform).dir = .encrypt := rfl
@[simp] theorem State.resetByPlatform_nr (s : State) : (s.resetByPlatform).nr = 0#6 := rfl
@[simp] theorem State.resetByPlatform_err (s : State) : (s.resetByPlatform).err = 0#4 := rfl
@[simp] theorem State.resetByPlatform_rk (s : State) : (s.resetByPlatform).rk = freeRk s.draws := rfl
@[simp] theorem State.resetByPlatform_transient (s : State) : (s.resetByPlatform).transient = freeTransient s.params.laneCount s.draws := rfl
@[simp] theorem State.resetByPlatform_mem (s : State) : (s.resetByPlatform).mem = Memory.ofCells s.memSize (Config.freeCells s.draws) := rfl
@[simp] theorem State.resetByPlatform_platform (s : State) : (s.resetByPlatform).platform = s.platform := rfl
@[simp] theorem State.resetByPlatform_params (s : State) : (s.resetByPlatform).params = s.params := rfl
@[simp] theorem State.resetByPlatform_script (s : State) : (s.resetByPlatform).script = s.script := rfl
@[simp] theorem State.resetByPlatform_yielded (s : State) : (s.resetByPlatform).yielded = s.yielded := rfl
@[simp] theorem State.resetByPlatform_draws (s : State) : (s.resetByPlatform).draws = s.draws + 1 := rfl

/-! `State.setOperand` -/

@[simp] theorem State.setOperand_keyValid (s : State) (o : Operand) (v : Word) : (s.setOperand o v).keyValid = s.keyValid := by
  cases o <;> rfl
@[simp] theorem State.setOperand_dir (s : State) (o : Operand) (v : Word) : (s.setOperand o v).dir = s.dir := by
  cases o <;> rfl
@[simp] theorem State.setOperand_nr (s : State) (o : Operand) (v : Word) : (s.setOperand o v).nr = s.nr := by
  cases o <;> rfl
@[simp] theorem State.setOperand_err (s : State) (o : Operand) (v : Word) : (s.setOperand o v).err = s.err := by
  cases o <;> rfl
@[simp] theorem State.setOperand_rk (s : State) (o : Operand) (v : Word) : (s.setOperand o v).rk = s.rk := by
  cases o <;> rfl
@[simp] theorem State.setOperand_transient (s : State) (o : Operand) (v : Word) : (s.setOperand o v).transient = s.transient := by
  cases o <;> rfl
@[simp] theorem State.setOperand_mem (s : State) (o : Operand) (v : Word) : (s.setOperand o v).mem = s.mem := by
  cases o <;> rfl
@[simp] theorem State.setOperand_platform (s : State) (o : Operand) (v : Word) : (s.setOperand o v).platform = s.platform := by
  cases o <;> rfl
@[simp] theorem State.setOperand_params (s : State) (o : Operand) (v : Word) : (s.setOperand o v).params = s.params := by
  cases o <;> rfl
@[simp] theorem State.setOperand_script (s : State) (o : Operand) (v : Word) : (s.setOperand o v).script = s.script := by
  cases o <;> rfl
@[simp] theorem State.setOperand_yielded (s : State) (o : Operand) (v : Word) : (s.setOperand o v).yielded = s.yielded := by
  cases o <;> rfl
@[simp] theorem State.setOperand_draws (s : State) (o : Operand) (v : Word) : (s.setOperand o v).draws = s.draws := by
  cases o <;> rfl

/-- The register written holds the value and has been written; every other register is as before. -/
theorem State.setOperand_operand (s : State) (o p : Operand) (v : Word) :
    (s.setOperand o v).operand p = if p = o then { value := v, written := true } else s.operand p := by
  cases o <;> cases p <;> rfl

@[simp] theorem State.setOperand_operand_self (s : State) (o : Operand) (v : Word) :
    (s.setOperand o v).operand o = { value := v, written := true } := by
  simp [State.setOperand_operand]

/-! The operand registers and RK through the updates that do not touch them. -/

@[simp] theorem State.withErr_operand (s : State) (code : BitVec 4) (o : Operand) : (s.withErr code).operand o = s.operand o := by
  cases o <;> rfl
@[simp] theorem State.withErr_rkAt (s : State) (code : BitVec 4) : (s.withErr code).rkAt = s.rkAt := rfl
@[simp] theorem State.withMem_operand (s : State) (m : Memory) (o : Operand) : (s.withMem m).operand o = s.operand o := by
  cases o <;> rfl
@[simp] theorem State.withMem_rkAt (s : State) (m : Memory) : (s.withMem m).rkAt = s.rkAt := rfl
@[simp] theorem State.install_operand (s : State) (d : Direction) (rk : List Word) (nr : Nat) (o : Operand) : (s.install d rk nr).operand o = s.operand o := by
  cases o <;> rfl
@[simp] theorem State.destroy_operand (s : State) (o : Operand) : (s.destroy).operand o = s.operand o := by
  cases o <;> rfl
@[simp] theorem State.dropTransient_operand (s : State) (o : Operand) : (s.dropTransient).operand o = s.operand o := by
  cases o <;> rfl
@[simp] theorem State.dropTransient_rkAt (s : State) : (s.dropTransient).rkAt = s.rkAt := rfl
@[simp] theorem State.taken_operand (s : State) (rest : List Action) (o : Operand) : (s.taken rest).operand o = s.operand o := by
  cases o <;> rfl
@[simp] theorem State.taken_rkAt (s : State) (rest : List Action) : (s.taken rest).rkAt = s.rkAt := rfl
@[simp] theorem State.yielding_operand (s : State) (y : Yield) (o : Operand) : (s.yielding y).operand o = s.operand o := by
  cases o <;> rfl
@[simp] theorem State.yielding_rkAt (s : State) (y : Yield) : (s.yielding y).rkAt = s.rkAt := rfl

@[simp] theorem State.setOperand_rkAt (s : State) (o : Operand) (v : Word) : (s.setOperand o v).rkAt = s.rkAt := by
  cases o <;> rfl

/-- RK after a key setup holds the array where it has a word (40_key_schedule.md R100). -/
theorem State.install_rkAt (s : State) (d : Direction) (rk : List Word) (nr k : Nat) (hk : k < rk.length)
    (h : k < 192) : (s.install d rk nr).rkAt k = rk.getD k 0#32 := by
  simp [State.rkAt, h, installedRk, hk]

end Sys2Proof.Machine
end

