-- ==== Sys2Proof/Laws/Operands.lean ====
section
/-! SUPPORT. What the shared operations of a command can do, said once: `require`, the independence check, one block
of a transform, the blocks of a PCL, and when each command's requirements hold.
-/

namespace Sys2Proof.Machine

@[simp] theorem require_nil (k : Host.Outcome State Fault Refusal) : require [] k = k := rfl

/-- With all requirements met the command goes on. -/
theorem require_of_all (rs : List (Bool × Refusal)) (k : Host.Outcome State Fault Refusal)
    (h : ∀ q ∈ rs, q.1 = true) : require rs k = k := by
  induction rs with
  | nil => rfl
  | cons q rest ih =>
    obtain ⟨b, r⟩ := q
    have hb : b = true := h (b, r) (by simp)
    simp only [require, hb, if_true]
    exact ih fun q hq => h q (by simp [hq])

/-- With one requirement not met the command is refused, for a reason that is one of theirs. -/
theorem require_of_not_all (rs : List (Bool × Refusal)) (k : Host.Outcome State Fault Refusal)
    (h : ¬ ∀ q ∈ rs, q.1 = true) : ∃ q ∈ rs, q.1 = false ∧ require rs k = .refused q.2 := by
  induction rs with
  | nil => simp at h
  | cons q rest ih =>
    obtain ⟨b, r⟩ := q
    cases b with
    | false => exact ⟨(false, r), by simp, rfl, rfl⟩
    | true =>
      have hrest : ¬ ∀ q ∈ rest, q.1 = true := by
        intro hall
        exact h fun q hq => by
          rcases List.mem_cons.mp hq with h | h
          · rw [h]
          · exact hall q h
      obtain ⟨q, hq, hf, hr⟩ := ih hrest
      exact ⟨q, by simp [hq], hf, hr⟩

/-- A requirement list lets a command complete exactly when all of it holds and what follows completes. -/
theorem require_eq_next (rs : List (Bool × Refusal)) (k : Host.Outcome State Fault Refusal) (t : State) :
    require rs k = .next t ↔ (∀ q ∈ rs, q.1 = true) ∧ k = .next t := by
  by_cases h : ∀ q ∈ rs, q.1 = true
  · rw [require_of_all rs k h]
    exact ⟨fun hk => ⟨h, hk⟩, fun hk => hk.2⟩
  · obtain ⟨q, -, -, hr⟩ := require_of_not_all rs k h
    rw [hr]
    exact ⟨fun hk => (nomatch hk), fun hk => absurd hk.1 h⟩

/-- Requirements never turn into a fault. -/
theorem require_ne_fault (rs : List (Bool × Refusal)) (k : Host.Outcome State Fault Refusal) (f : Fault)
    (hk : k ≠ .fault f) : require rs k ≠ .fault f := by
  by_cases h : ∀ q ∈ rs, q.1 = true
  · rwa [require_of_all rs k h]
  · obtain ⟨q, -, -, hr⟩ := require_of_not_all rs k h
    simp [hr]

/-- The independence check decides R58. -/
theorem independent_iff (s : State) (aux ac : Bool) (n : Nat) :
    independent s aux ac n = true ↔
      ClearOfOthers s.outAddr s.inAddr n ∧ (aux = true → ClearOfOthers s.outAddr (s.auxAddr ac) n) := by
  cases aux <;> simp only [independent, Bool.not_true, Bool.not_false, Bool.true_or, Bool.false_or, Bool.and_true,
    Bool.and_eq_true, decide_eq_true_eq, Bool.false_eq_true, false_implies, and_true, true_implies]

/-- A command of at most one block is always independent (R58). -/
theorem independent_of_le_one (s : State) (aux ac : Bool) (n : Nat) (h : n ≤ 1) :
    independent s aux ac n = true := by
  refine (independent_iff s aux ac n).mpr ⟨?_, fun _ => ?_⟩ <;>
    · intro i hi j hj hij
      omega

/-- The requirements of BLK hold exactly when BLK is ready. -/
theorem blkRequires_iff (xa : Bool) (s : State) :
    (∀ q ∈ blkRequires xa s, q.1 = true) ↔ BlkReady xa s := by
  cases xa <;>
    simp [blkRequires, needsInstance, needsOperand, needsFit, needsPlain] <;> tauto

/-- The requirements of PCL hold exactly when PCL is ready. -/
theorem pclRequires_iff (xb xa ac : Bool) (s : State) :
    (∀ q ∈ pclRequires xb xa ac s, q.1 = true) ↔ PclReady xb xa ac s := by
  by_cases hn : 0 < s.blockCount
  · cases hx : (xb || xa) <;>
      simp only [pclRequires, pclRegionRequires, PclReady, PclRegionsReady, PointerReady, hn, hx, needsInstance,
        needsOperand, needsFit, needsPlain, needsIndependent, State.operand_nblk, if_true, if_false, Bool.false_eq_true,
        List.forall_mem_append, List.forall_mem_cons, decide_eq_true_eq, true_implies,
        false_implies, List.append_nil] <;> tauto
  · simp [pclRequires, hn, needsInstance, needsOperand]

/-- The bytes one block writes: 16 bytes at `output`. -/
theorem oneBlock_eq_write (s : State) (xb xa : Bool) (input aux output : Nat) (m : Memory) :
    ∃ b : List Byte, b.length = 16 ∧ oneBlock s xb xa input aux output m = m.write output b ∧
      b = blockResult tables s.dir s.rkAt s.nr.toNat xb xa (m.read input 16)
        (if xb || xa then m.read aux 16 else []) := by
  refine ⟨_, length_blockResult _ _ _ _ _ _ _ _ ?_, rfl, rfl⟩
  intro h
  simp [h]

/-- One block leaves every byte outside its output block alone (20_memory.md R60). -/
theorem oneBlock_outside (s : State) (xb xa : Bool) (input aux output : Nat) (m : Memory) {a : Nat}
    (h : ¬ InRange a output 16) : (oneBlock s xb xa input aux output m).readByte a = m.readByte a := by
  obtain ⟨b, hb, he, -⟩ := oneBlock_eq_write s xb xa input aux output m
  rw [he, Memory.readByte_write_outside]
  rw [hb]
  unfold InRange at h
  omega

/-- One block keeps the canonical form. -/
theorem oneBlock_wf (s : State) (xb xa : Bool) (input aux output : Nat) (m : Memory) (hm : m.wf = true) :
    (oneBlock s xb xa input aux output m).wf = true := by
  obtain ⟨b, -, he, -⟩ := oneBlock_eq_write s xb xa input aux output m
  rw [he]
  exact Memory.wf_write b m output hm

/-- One block below a size keeps a memory below it. -/
theorem oneBlock_below {size : Nat} (s : State) (xb xa : Bool) (input aux output : Nat) (m : Memory)
    (hm : m.below size = true) (h : output + 16 ≤ size) :
    (oneBlock s xb xa input aux output m).below size = true := by
  obtain ⟨b, hb, he, -⟩ := oneBlock_eq_write s xb xa input aux output m
  rw [he]
  exact Memory.below_write b m output hm (by rw [hb]; exact h)

/-- The output block of one block holds the block's result (42_parallel_lanes.md R163). -/
theorem oneBlock_inside (s : State) (xb xa : Bool) (input aux output : Nat) (m : Memory) (hm : m.wf = true)
    (k : Nat) (hk : k < 16) :
    (oneBlock s xb xa input aux output m).readByte (output + k) =
      byteAt (blockResult tables s.dir s.rkAt s.nr.toNat xb xa (m.read input 16)
        (if xb || xa then m.read aux 16 else [])) k := by
  obtain ⟨b, hb, he, hv⟩ := oneBlock_eq_write s xb xa input aux output m
  rw [he, ← hv]
  exact Memory.readByte_write_inside b m output k hm (by omega)

/-- The blocks of a PCL leave every byte outside their output blocks alone. -/
theorem pclBlocks_outside (xb xa ac : Bool) (s : State) (n : Nat) {a : Nat}
    (h : ¬ InRange a (s.outAddr 0) (16 * n)) : (pclBlocks xb xa ac s n).readByte a = s.mem.readByte a := by
  induction n with
  | zero => rfl
  | succ n ih =>
    rw [pclBlocks, oneBlock_outside, ih]
    · simp only [InRange, State.outAddr] at h ⊢
      omega
    · simp only [InRange, State.outAddr] at h ⊢
      omega

/-- The blocks of a PCL keep the canonical form. -/
theorem pclBlocks_wf (xb xa ac : Bool) (s : State) (n : Nat) (hm : s.mem.wf = true) :
    (pclBlocks xb xa ac s n).wf = true := by
  induction n with
  | zero => exact hm
  | succ n ih => exact oneBlock_wf _ _ _ _ _ _ _ ih

/-- The blocks of a PCL stay inside MEM when their region fits. -/
theorem pclBlocks_below (xb xa ac : Bool) (s : State) (n : Nat) (hm : Memory.below s.memSize s.mem = true)
    (h : Fits s (s.operandNat .optr) (16 * n)) : (pclBlocks xb xa ac s n).below s.memSize = true := by
  induction n with
  | zero => exact hm
  | succ n ih =>
    unfold Fits at h
    exact oneBlock_below _ _ _ _ _ _ _ (ih (by unfold Fits; omega)) (by simp only [State.outAddr]; omega)

end Sys2Proof.Machine
end

