-- ==== Sys2Proof/Laws/Exec.lean ====
section
/-! SUPPORT. What each command can do when it answers a next state, said once, for the proofs of frames and
invariants to cite.
-/

namespace Sys2Proof.Machine

/-- A key setup completes in two ways: it reports InvalidKeyLength, or it makes the instance (40_key_schedule.md
R100). -/
theorem keySetup_eq_next (dir : Direction) (s t : State) :
    keySetup dir s = .next t ↔
      (KeyLengthBad s ∧ t = s.withErr 1#4) ∨ (KeyReady s ∧ t = keyInstalled dir s) := by
  cases hlen : keyLenOk (s.operandNat .klen) <;>
    simp only [keySetup, require_eq_next, hlen, if_true, if_false, raiseInvalidKeyLength, KeyLengthBad, KeyReady,
      needsOperand, needsFit, needsPlain, State.operand_klen, State.operand_kptr, List.forall_mem_cons,
      decide_eq_true_eq, Host.Outcome.next.injEq, List.not_mem_nil, false_implies, implies_true, and_true,
      Bool.false_eq_true, Bool.true_eq_false, and_false, false_and, or_false, false_or, true_and]
  · exact and_congr_right fun _ => eq_comm
  · exact ⟨fun ⟨a, b, c⟩ => ⟨⟨a, b⟩, c.symm⟩, fun ⟨⟨a, b⟩, c⟩ => ⟨a, b, c.symm⟩⟩

/-- BLK completes exactly when it is ready, and then with its effect (41_round_engine.md R144). -/
theorem execBlk_eq_next (xa : Bool) (s t : State) :
    execBlk xa s = .next t ↔ BlkReady xa s ∧ t = blkDone xa s := by
  rw [execBlk, require_eq_next, blkRequires_iff, Host.Outcome.next.injEq]
  exact and_congr_right fun _ => eq_comm

/-- PCL completes exactly when it is ready, and then with its effect (42_parallel_lanes.md R163). -/
theorem execPcl_eq_next (xb xa ac : Bool) (s t : State) :
    execPcl xb xa ac s = .next t ↔ PclReady xb xa ac s ∧ t = pclDone xb xa ac s := by
  rw [execPcl, require_eq_next, pclRequires_iff, Host.Outcome.next.injEq]
  exact and_congr_right fun _ => eq_comm

/-- KCLR completes in every state (40_key_schedule.md R102). -/
theorem execKclr_eq_next (s t : State) : execKclr s = .next t ↔ t = s.destroy.withErr 0#4 := by
  rw [execKclr, Host.Outcome.next.injEq]
  exact eq_comm

/-- A step with an action on the script does that action, taken off the script (10_state.md R40). -/
theorem step_cons (s : State) (a : Action) (rest : List Action) (h : s.script = a :: rest) :
    step s = act a (s.taken rest) := by
  simp only [step, h]

/-- Every register is at its offset of the map (10_state.md R22). -/
@[simp] theorem regAt_offset (r : Reg) : regAt r.offset = some r := by
  rcases r with _ | _ | _ | o
  · rfl
  · rfl
  · rfl
  · cases o <;> rfl

/-- A 32-bit access at a register's offset reaches it. -/
@[simp] theorem accessedReg_offset (r : Reg) : accessedReg r.offset 32 = some r := by
  simp [accessedReg]

end Sys2Proof.Machine
end

