-- ==== Sys2Proof/Laws/PerInstr.lean ====
section
/-! SUPPORT. Statements about every instruction as syntax, one lemma per constructor.
-/

namespace Sys2Proof.Laws.RoundTrip

/-- A command is well-formed and its word decodes to it (30_encoding.md R79 to R83, R91). -/
def Statement (i : Instr) : Prop := i.wf = true ∧ decode (encode i) = .command i

theorem kseEnc : Statement .kseEnc := ⟨rfl, by decide⟩

theorem kseDec : Statement .kseDec := ⟨rfl, by decide⟩

theorem kclr : Statement .kclr := ⟨rfl, by decide⟩

theorem blk (xa : Bool) : Statement (.blk xa) := by exact ⟨rfl, by cases xa <;> decide⟩

theorem pcl (xb xa ac : Bool) : Statement (.pcl xb xa ac) := by
  exact ⟨rfl, by cases xb <;> cases xa <;> cases ac <;> decide⟩

end Sys2Proof.Laws.RoundTrip
end

