-- ==== Sys2Proof/Tests/Slice0.lean ====
section
/-! SUPPORT. The model's own tests: one step each, expected values from 95_test_vectors.md or written out from the
encodings of 30_encoding.md; and for each statement with hypotheses a state that meets them.
-/

namespace Sys2Proof.Tests

open Sys2Proof.Machine

/-! ## WellFormed: a term each check refuses, and one it passes -/

theorem test_wf_register_width : (Action.regWrite 0x0C 16 0#32).wf 32 = false := by decide
theorem test_wf_register_alignment : (Action.regRead 0x0E 32).wf 32 = false := by decide
theorem test_wf_register_offset : (Action.regRead 0x24 32).wf 32 = false := by decide
theorem test_wf_register_last : (Action.regRead 0x20 32).wf 32 = true := by decide
theorem test_wf_mem_write_past_end : (Action.memWrite 0xffffffff [0#8, 0#8]).wf 32 = false := by decide
theorem test_wf_mem_read_past_end : (Action.memRead 0xfffffff0 17).wf 32 = false := by decide
theorem test_wf_mem_read_to_end : (Action.memRead 0xfffffff0 16).wf 32 = true := by decide
theorem test_wf_mem_read_narrow : (Action.memRead 0xfff0 17).wf 16 = false := by decide
theorem test_wf_bulk_without_flag : (Pseudo.bulkFlags false false false 1#32 0#32 0#32 0#32).wf = false := by decide
theorem test_wf_bulk_with_flag : (Pseudo.bulkFlags false false true 1#32 0#32 0#32 0#32).wf = true := by decide
theorem test_wf_commands : allCommands.all Instr.wf = true := by decide

/-! ## Decode: words written out field by field from the picture of 30_encoding.md R76 -/

/-- A command word from its fields: zero bits 31:12, F3, AC, XA, XB, zero bits 7:5, D, OP. -/
def fields (f3 ac xa xb d : BitVec 1) (op : BitVec 4) : Word := 0#20 ++ f3 ++ ac ++ xa ++ xb ++ 0#3 ++ d ++ op

theorem test_decode_kse_enc : decode (fields 0 0 0 0 0 1) = .command .kseEnc := by decide
theorem test_decode_kse_dec : decode (fields 0 0 0 0 1 1) = .command .kseDec := by decide
theorem test_decode_kclr : decode (fields 0 0 0 0 0 4) = .command .kclr := by decide
theorem test_decode_blk : decode (fields 0 0 0 0 0 2) = .command (.blk false) := by decide
theorem test_decode_blk_xa : decode (fields 0 0 1 0 0 2) = .command (.blk true) := by decide
theorem test_decode_pcl_xb : decode (fields 0 0 0 1 0 3) = .command (.pcl true false false) := by decide
theorem test_decode_pcl_xa : decode (fields 0 0 1 0 0 3) = .command (.pcl false true false) := by decide
theorem test_decode_pcl_ac : decode (fields 0 1 0 0 0 3) = .command (.pcl false false true) := by decide

/-- 95_test_vectors.md section 4.1, the words of the table whose verdict is `Invalid`. -/
theorem test_decode_invalid :
    [0x00000000#32, 0x00000005#32, 0x0000000f#32, 0x00000012#32, 0x00000013#32, 0x00000014#32,
     0x00000101#32, 0x00000102#32, 0x00000402#32, 0x00000204#32, 0x00000803#32, 0x00000023#32,
     0x00000083#32, 0x00001003#32, 0x80000001#32, 0xffffffff#32].all (fun w => decode w == .invalid) = true := by decide

/-- 30_encoding.md R83, R89: suffix order, and the word of the longest mnemonic. -/
theorem test_assemble : assemble "PCL.XB.XA.AC" = some 0x703#32 ∧ assemble "BLK.XA" = some 0x202#32 ∧
    assemble "BLK.XB" = none := by decide

/-- 30_encoding.md R90: XFORM.XA. -/
theorem test_expand : (Pseudo.xformXa 1#32 2#32 3#32).expand =
    [.regWrite 0x14 32 1#32, .regWrite 0x18 32 2#32, .regWrite 0x1C 32 3#32, .regWrite 0x04 32 0x202#32] := by decide

/-! ## Small states -/

/-- An operand register the host has written. -/
def holds (v : Word) : OperandReg := { value := v, written := true }

/-- The key K128 of 95_test_vectors.md. -/
def k128 : List Byte :=
  [0x0f#8, 0x1e#8, 0x2d#8, 0x3c#8, 0x4b#8, 0x5a#8, 0x69#8, 0x78#8,
   0x87#8, 0x96#8, 0xa5#8, 0xb4#8, 0xc3#8, 0xd2#8, 0xe1#8, 0xf0#8]

/-- The plaintext `10 11 .. 1f`. -/
def plain : List Byte := (List.range 16).map fun k => BitVec.ofNat 8 (0x10 + k)

/-- The auxiliary block `00 01 .. 0f`. -/
def aux0 : List Byte := (List.range 16).map fun k => BitVec.ofNat 8 k

/-- The ciphertext of `plain` under K128 (95_test_vectors.md section 2). -/
def cipher : List Byte :=
  [0x9f#8, 0xc8#8, 0x4e#8, 0x35#8, 0x28#8, 0xc6#8, 0xc6#8, 0x18#8,
   0x55#8, 0x32#8, 0xc7#8, 0xa7#8, 0x04#8, 0x64#8, 0x8b#8, 0xfd#8]

/-- Before a key setup: K128 at 0x100, KPTR and KLEN written, no instance. -/
def keyed (klen : Word) : State :=
  { State.reset with
    kptr := holds 0x100#32
    klen := holds klen
    mem := Memory.write [] 0x100 k128 }

/-- With an instance, `plain` at 0x200, `aux0` at 0x300, output at 0x400. The round count of a legal state. -/
def ready (nblk : Word) : State :=
  { keyed 16#32 with
    iptr := holds 0x200#32
    aptr := holds 0x300#32
    optr := holds 0x400#32
    nblk := holds nblk
    keyValid := true
    nr := 24#6
    mem := Memory.write (Memory.write [] 0x200 plain) 0x300 aux0 }

/-- One round with zero subkeys in the direction `dir` (the lines of 95_test_vectors.md section 3.7), the block `b` at
0x200, `aux0` at 0x300. Not a legal round count: a round is a round. -/
def oneRound (dir : Direction) (b : List Byte) : State :=
  { ready 1#32 with nr := 1#6, dir := dir, mem := Memory.write (Memory.write [] 0x200 b) 0x300 aux0 }

/-- The words 1, 2, 3, 4 as a block, and their image under the forward round. -/
def blockIn : List Byte := storeBlock ⟨1#32, 2#32, 3#32, 4#32⟩
def blockOut : List Byte := storeBlock ⟨0x00000600#32, 0x28000000#32, 0xe0000000#32, 0x00000001#32⟩

/-- `ready` in a CORE of ten address bits and one lane: MEM ends at 0x3ff. The output block is the last of MEM. -/
def narrow (nblk : Word) : State :=
  { ready nblk with
    params := { addressWidth := 10, laneCount := 1 }
    transient := freeTransient 1 0
    optr := holds 0x3f0#32 }

/-- What an outcome holds, as far as it is a next state. -/
def after (o : Host.Outcome State Fault Refusal) (p : State → Bool) : Bool :=
  match o with
  | .next t => p t
  | .fault _ => false
  | .refused _ => false

/-- The refusal of an outcome. -/
def refusal (o : Host.Outcome State Fault Refusal) : Option Refusal :=
  match o with
  | .next _ => none
  | .fault _ => none
  | .refused r => some r

/-! ## Primitives, tables and rounds (95_test_vectors.md sections 3.1 to 3.7) -/

theorem test_rol : rol 0xc3efe9db#32 1 = 0x87dfd3b7#32 ∧ rol 0xc3efe9db#32 31 = 0xe1f7f4ed#32 ∧
    rol 0xc3efe9db#32 32 = 0xc3efe9db#32 ∧ rol 0xc3efe9db#32 34 = 0x0fbfa76f#32 := by decide
theorem test_ror : ror 0x00000001#32 1 = 0x80000000#32 ∧ ror 0x00000005#32 5 = 0x28000000#32 := by decide
theorem test_le32 : le32 plain 0 = 0x13121110#32 ∧ le32 plain 12 = 0x1f1e1d1c#32 := by decide
theorem test_key_load : loadKey k128 = [0x3c2d1e0f#32, 0x78695a4b#32, 0xb4a59687#32, 0xf0e1d2c3#32] := by
  decide

/-- Section 3.3, round 0. -/
theorem test_key_step_16 : (keyStep16 0 (loadKey k128)).2 =
    ⟨0x003a0fd4#32, 0x02497010#32, 0x194f7db1#32, 0x02497010#32, 0x090d0883#32, 0x02497010#32⟩ := by
  decide

/-- Section 3.6, 24 and 32 bytes of zero. -/
theorem test_key_step_24_32 :
    (keyStep24 0 (List.replicate 6 0#32)).2 =
      ⟨0x87dfd3b7#32, 0x3efe9dbc#32, 0xefe9dbc3#32, 0xfa76f0fb#32, 0xd3b787df#32, 0x76f0fbfa#32⟩ ∧
    (keyStep32 0 (List.replicate 8 0xffffffff#32)).2 =
      ⟨0x87dfd3b5#32, 0x3efe9db4#32, 0xefe9db83#32, 0xfa76e8fb#32, 0xd3b767df#32, 0x76eefbfa#32⟩ := by
  decide

theorem test_round_f : defaultRoundF ⟨1#32, 2#32, 3#32, 4#32⟩ ⟨1#32, 2#32, 3#32, 4#32, 5#32, 6#32⟩ =
    ⟨0x00000000#32, 0x40000000#32, 0x00000001#32, 0x00000001#32⟩ := by decide
theorem test_round_i : defaultRoundI ⟨1#32, 2#32, 3#32, 4#32⟩ ⟨1#32, 2#32, 3#32, 4#32, 5#32, 6#32⟩ =
    ⟨0x00000004#32, 0x007ffff9#32, 0xff800042#32, 0x007fffd7#32⟩ := by decide

/-! ## The commands -/

/-- Section 4.3: STATUS after KSE.ENC with a key of 16 bytes. -/
theorem test_kse_enc : after (exec .kseEnc (keyed 16#32)) (fun t => t.statusWord == 0x1801#32) = true := by
  decide

/-- Section 4.3: STATUS after KSE.DEC with a key of 32 bytes. -/
theorem test_kse_dec : after (exec .kseDec (keyed 32#32)) (fun t => t.statusWord == 0x2003#32) = true := by
  decide

/-- Section 4.3: all 32 bits of KLEN are compared. -/
theorem test_kse_dec_bad_length :
    after (exec .kseDec (keyed 0x10010#32)) (fun t => t.statusWord == 0x10#32) = true := by
  decide

/-- 40_key_schedule.md R102: KCLR with an instance. -/
theorem test_kclr : after (exec .kclr (ready 1#32)) (fun t => t.statusWord == 0#32) = true := by decide

/-- Section 3.7: BLK, one forward round. -/
theorem test_blk : after (exec (.blk false) (oneRound .encrypt blockIn))
    (fun t => t.mem.read 0x400 16 == blockOut) = true := by decide

/-- Section 3.7: BLK.XA on a decryption instance inverts, then XORs `00 01 .. 0f`. -/
theorem test_blk_xa : after (exec (.blk true) (oneRound .decrypt blockOut))
    (fun t => t.mem.read 0x400 6 == [0x01#8, 0x01#8, 0x02#8, 0x03#8, 0x06#8, 0x05#8]) = true := by
  decide

/-- Section 3.7: PCL.XB, the auxiliary block being all of the round's input. -/
theorem test_pcl_xb : after (exec (.pcl true false false)
      { oneRound .encrypt [] with mem := Memory.write [] 0x300 blockIn })
    (fun t => t.mem.read 0x400 16 == blockOut) = true := by decide

/-- Section 5.7: output one block ahead of the input. -/
theorem test_pcl_overlap :
    refusal (exec (.pcl false false false) { ready 2#32 with optr := holds 0x210#32 }) = some .notIndependent := by
  decide

/-- 20_memory.md R56, 00_scope.md R11: with AW = 10 the last block of MEM ends at 0x400, and a pointer of 2^10 is past it. -/
theorem test_narrow_last_block : refusal (exec (.blk false) (narrow 1#32)) = none := by decide
theorem test_narrow_past_end :
    refusal (exec (.blk false) { narrow 1#32 with optr := holds 0x400#32 }) = some (.regionOutsideMem 0x400 16) := by
  decide

/-! ## The step and the host's side -/

/-- Section 4.2: RD CAP for W = 1. -/
theorem test_read_cap_one_lane : after (step { narrow 1#32 with script := [.rd .cap] })
    (fun t => t.yielded == .word 0x00001710#32) = true := by decide

/-- Section 4.2: RD CAP and RD STATUS after reset. -/
theorem test_read_cap : after (step { State.reset with script := [.rd .cap] })
    (fun t => t.yielded == .word 0x00004710#32) = true := by decide
theorem test_read_status : after (step { State.reset with script := [.rd .status] })
    (fun t => t.yielded == .word 0#32) = true := by decide

/-- Section 4.2: WR KLEN, 5 and KSE.ENC with KPTR never written. -/
theorem test_gate_before_kptr :
    after (exec .kseEnc { State.reset with klen := holds 5#32 }) (fun t => t.statusWord == 0x10#32) = true := by
  decide

/-- Section 4.2: BLK after reset. -/
theorem test_blk_at_reset :
    refusal (step (State.reset.withFetchWord 32 0x2)) = some .noInstance := by decide

/-- Section 4.2: KCLR after reset, placed as the next action. -/
theorem test_kclr_at_reset :
    after (step (State.reset.withFetchWord 32 0x4)) (fun t => t.statusWord == 0#32) = true := by decide

/-- 20_memory.md R51: MEMW puts the leftmost byte at the lowest address. -/
theorem test_host_write : after (step { State.reset with script := [.memWrite 0x200 [0xaa#8, 0xbb#8]] })
    (fun t => t.mem == [(0x200, 0xaa#8), (0x201, 0xbb#8)]) = true := by decide

/-! ## Witnesses: states and operands that meet the hypotheses of the statements, one per clause -/

/-- `ready` with the input block at the top of MEM (95_test_vectors.md section 5.7). -/
def edge (nblk : Word) : State := { ready nblk with iptr := holds 0xfffffff0#32 }

/-- `ready` with a hole in MEM at the input block's last byte. -/
def holed (nblk : Word) : State := { ready nblk with platform := [{ base := 0x20f, size := 1, kind := .noStorage }] }

/-- A state with one action on its script. -/
def acting (s : State) (a : Action) : State := { s with script := [a] }

/-! ReservedWordsAreInvalidAndRefused, and the first clause of KeySetupChecksInOrder. -/
theorem wit_invalid_word_issued :
    decode 0x00000803#32 = .invalid ∧ (acting State.reset (.wr .cmd 0x00000803#32)).script = [.wr .cmd 0x00000803#32] :=
  ⟨by decide, rfl⟩

/-! StepRunsTheIssuedCommand. -/
theorem wit_command_issued : decode 0x00000703#32 = .command (.pcl true true true) ∧
    (acting (ready 2#32) (.wr .cmd 0x00000703#32)).script = [.wr .cmd 0x00000703#32] :=
  ⟨by decide, rfl⟩
theorem wit_cmd_read : (acting State.reset (.rd .cmd)).script = [.rd .cmd] := rfl

/-! KseEncMakesAnEncryptionInstance, KseDecMakesADecryptionInstance, BadKeyLengthSetsErrOnly, KeySetupChecksInOrder,
BothDirectionsShareOneSchedule, RekeyingLeavesNothingOfTheOldInstance: KLEN never written; a bad length at each
boundary; KPTR never written; a key past the end of MEM;
a key in a hole; ready, and ready with the key ending at the end of MEM. -/
theorem wit_klen_not_written : State.reset.klen.written = false := rfl
theorem wit_key_length_bad : KeyLengthBad (keyed 0#32) ∧ KeyLengthBad (keyed 15#32) ∧ KeyLengthBad (keyed 17#32) ∧
    KeyLengthBad (keyed 31#32) ∧ KeyLengthBad (keyed 33#32) ∧ KeyLengthBad (keyed 0xffffffff#32) := by
  decide
theorem wit_key_length_unequal : (17#32 : Word) ≠ 16#32 ∧ (17#32 : Word) ≠ 24#32 ∧ (17#32 : Word) ≠ 32#32 := by
  decide
theorem wit_kptr_not_written : let s := { State.reset with klen := holds 32#32 }
    s.klen.written = true ∧ keyLenOk (s.operandNat .klen) = true ∧ s.kptr.written = false ∧ ¬ KeyReady s := by
  decide
theorem wit_key_past_end : let s := { keyed 16#32 with kptr := holds 0xfffffff1#32 }
    s.klen.written = true ∧ keyLenOk (s.operandNat .klen) = true ∧ s.kptr.written = true ∧
    ¬ Fits s (s.operandNat .kptr) (s.operandNat .klen) ∧ ¬ KeyReady s := by decide
theorem wit_key_in_hole :
    ¬ KeyReady { keyed 16#32 with platform := [{ base := 0x10f, size := 1, kind := .device }] } := by decide
theorem wit_key_ready : KeyReady (keyed 16#32) ∧ KeyReady (keyed 24#32) ∧ KeyReady (keyed 32#32) := by
  decide
theorem wit_key_ready_at_end : KeyReady { keyed 16#32 with kptr := holds 0xfffffff0#32 } := by decide
theorem wit_key_setup_commands :
    (Instr.kseEnc = .kseEnc ∧ Direction.encrypt = .encrypt) ∧ (Instr.kseDec = .kseDec ∧ Direction.decrypt = .decrypt) :=
  ⟨⟨rfl, rfl⟩, rfl, rfl⟩

/-! KeyExpandFillsTheWholeArray, KeyExpandFollowsTheRecurrence: the first and the last word of each array. -/
theorem wit_key_lengths : k128.length = 16 ∧ (k128 ++ k128.take 8).length = 24 ∧ (k128 ++ k128).length = 32 := by
  decide
theorem wit_key_expand_indices : keyLenOk k128.length = true ∧ 0 < roundCount k128.length ∧
    23 < roundCount k128.length ∧ 31 < roundCount (k128 ++ k128).length ∧ 5 < 6 := by decide

/-! BlkTransformsOneBlock: ready with and without the auxiliary block, MEM canonical; each kind of not ready; NBLK 1. -/
theorem wit_blk_ready : (ready 1#32).mem.wf = true ∧ BlkReady false (ready 1#32) ∧ BlkReady true (ready 1#32) := by
  decide
theorem wit_blk_ready_at_end : (edge 1#32).mem.wf = true ∧ BlkReady true (edge 1#32) := by decide
theorem wit_blk_in_place : BlkReady true { ready 1#32 with optr := holds 0x200#32 } := by decide
theorem wit_blk_not_ready :
    ¬ BlkReady false State.reset ∧ ¬ BlkReady false (holed 1#32) ∧
    ¬ BlkReady false { ready 1#32 with optr := holds 0xfffffff1#32 } ∧
    ¬ BlkReady true { ready 1#32 with aptr := OperandReg.reset } := by
  refine ⟨?_, ?_, ?_, ?_⟩ <;> decide
theorem wit_blk_nblk : (ready 1#32).nblk = { value := 1#32, written := true } := rfl

/-! PclTransformsEveryBlock, PclOfNoBlocksTouchesNoMemory, LanesComputeTheSameMemory, PclEqualsScalarCommands: ready
with blocks, with none, in place, over the auxiliary stream; each kind of not ready. -/
theorem wit_pcl_ready : (ready 2#32).mem.wf = true ∧ PclReady false false false (ready 2#32) ∧
    PclReady true true true (ready 2#32) ∧ PclReady true false false (ready 2#32) := by
  refine ⟨?_, ?_, ?_, ?_⟩ <;> decide
theorem wit_pcl_ready_none : PclReady true true false { ready 0#32 with iptr := OperandReg.reset } := by
  decide
theorem wit_pcl_ready_at_end : PclReady false false false (edge 1#32) := by decide
theorem wit_pcl_in_place : PclReady false true false { ready 2#32 with optr := holds 0x300#32 } := by decide
theorem wit_pcl_not_ready :
    ¬ PclReady false false false State.reset ∧ ¬ PclReady false false false (holed 2#32) ∧
    ¬ PclReady false false false (edge 2#32) ∧
    ¬ PclReady false false false { ready 2#32 with optr := holds 0x210#32 } ∧
    ¬ PclReady false true true { ready 2#32 with aptr := holds 0x410#32 } := by
  refine ⟨?_, ?_, ?_, ?_, ?_⟩ <;> decide
theorem wit_pcl_none : (ready 0#32).nblk = { value := 0#32, written := true } ∧ (ready 0#32).keyValid = true ∧
    ({ ready 0#32 with keyValid := false } : State).keyValid = false := ⟨rfl, rfl, rfl⟩
theorem wit_lanes : 1 ≤ 4 ∧ PclReady true true false (ready 5#32) := by decide
theorem wit_scalar : (ready 5#32).params.Legal ∧ PclReady true true false (ready 5#32) := by decide
theorem wit_scalar_narrow : (narrow 1#32).params.Legal ∧ PclReady false false false (narrow 1#32) := by decide

/-! RegionsPastTheEndAreRefused: each clause at the end of MEM of a CORE with AW = 10 and one with AW = 32. -/
theorem wit_past_end_key : let s := { keyed 16#32 with params := (narrow 0#32).params, kptr := holds 0x3f1#32 }
    keyLenOk (s.operandNat .klen) = true ∧ ¬ Fits s (s.operandNat .kptr) (s.operandNat .klen) := by decide
theorem wit_past_end_blk : let s := { narrow 1#32 with aptr := holds 0x3f1#32 }
    Fits s (s.operandNat .optr) 16 ∧ ¬ Fits s (s.operandNat .aptr) 16 := by decide
theorem wit_past_end_pcl : 0 < (edge 2#32).blockCount ∧
    ¬ Fits (edge 2#32) ((edge 2#32).operandNat .iptr) (16 * (edge 2#32).blockCount) ∧
    ¬ Fits (narrow 2#32) ((narrow 2#32).operandNat .optr) (16 * (narrow 2#32).blockCount) := by decide
theorem wit_past_end_pointer : let s := { narrow 1#32 with iptr := holds 0x400#32 }
    0 < 1 ∧ s.memSize ≤ s.operandNat .iptr := by decide

/-! IndependenceIsALayoutCondition: both sides of each condition at the places where they meet. -/
theorem wit_independent_counts : 0 ≤ 1 ∧ 1 ≤ 1 ∧ 2 ≤ 2 := by decide
theorem wit_independent :
    independent (ready 2#32) true true 2 = true ∧
    independent { ready 2#32 with optr := holds 0x220#32 } false false 2 = true ∧
    independent { ready 2#32 with optr := holds 0x21f#32 } false false 2 = false ∧
    independent { ready 2#32 with optr := holds 0x310#32 } true false 2 = false ∧
    independent { ready 2#32 with optr := holds 0x310#32 } true true 2 = true ∧
    independent { ready 2#32 with optr := holds 0x30f#32 } true true 2 = false := by decide

/-! XorBeforeAndAfterUndoEachOther, DecryptionUndoesEncryption, BlocksAreLittleEndian. -/
theorem wit_blocks : plain.length = 16 ∧ aux0.length = 16 ∧ 0 < 16 ∧ 15 < 16 := by decide
theorem wit_rounds_invert :
    Tables.RoundsInvert { delta := [], keyStep := fun _ _ t => (t, default), roundF := fun x _ => x,
                          roundI := fun y _ => y } :=
  ⟨fun _ _ => rfl, fun _ _ => rfl⟩

/-! AuxiliaryIgnoredWithoutXorFlags, NoCommandWritesAnOperandRegister, OnlyOutputBytesAreStored,
TransformsNeverChangeTheInstance, CommandsCompleteOrAreRefused, ErrIsTheOutcomeOfTheLastCommand: commands that answer a
next state, and ones that do not. -/
theorem wit_kse_enc_next : ∃ t, exec .kseEnc (keyed 16#32) = .next t :=
  ⟨keyInstalled .encrypt (keyed 16#32), (keySetup_eq_next .encrypt _ _).mpr (.inr ⟨wit_key_ready.1, rfl⟩)⟩
theorem wit_kse_dec_next : ∃ t, exec .kseDec (keyed 17#32) = .next t :=
  ⟨(keyed 17#32).withErr 1#4, (keySetup_eq_next .decrypt _ _).mpr (.inl ⟨wit_key_length_bad.2.2.1, rfl⟩)⟩
theorem wit_kclr_next : ∃ t, exec .kclr State.reset = .next t := ⟨_, rfl⟩
theorem wit_blk_next : ∃ t, exec (.blk true) (edge 1#32) = .next t :=
  ⟨blkDone true (edge 1#32), (execBlk_eq_next _ _ _).mpr ⟨wit_blk_ready_at_end.2, rfl⟩⟩
theorem wit_pcl_next : ∃ t, exec (.pcl false false false) (ready 2#32) = .next t :=
  ⟨pclDone false false false (ready 2#32), (execPcl_eq_next _ _ _ _ _).mpr ⟨wit_pcl_ready.2.1, rfl⟩⟩
theorem wit_completes : Completes .kseEnc (keyed 17#32) ∧ Completes .kseDec (keyed 24#32) ∧
    Completes .kclr State.reset ∧ Completes (.blk true) (ready 1#32) ∧
    Completes (.pcl true true true) (ready 2#32) :=
  ⟨.inl (by decide), .inr wit_key_ready.2.1, trivial, wit_blk_ready.2.2, wit_pcl_ready.2.2.1⟩
theorem wit_not_completes : ¬ Completes .kseEnc State.reset ∧ ¬ Completes (.blk false) State.reset :=
  ⟨by rintro (h | h) <;> revert h <;> decide, wit_blk_not_ready.1⟩
theorem wit_not_stored : ¬ StoresTo (.blk true) (ready 1#32) 0x3ff ∧ ¬ StoresTo (.blk true) (ready 1#32) 0x410 ∧
    ¬ StoresTo (.pcl true false false) (ready 2#32) 0x420 ∧ ¬ StoresTo .kclr (ready 1#32) 0 := by
  simp only [StoresTo]
  decide

/-! StatusShowsTheFields, CapIsConstant, RegisterAccessRules, OperandReadsNeedAWrite, SubkeysAreUnreadable: each
register of the map, and the accesses that are none. -/
theorem wit_status_read_and_write : (acting (ready 1#32) (.rd .status)).script = [.rd .status] ∧
    (acting (ready 1#32) (.wr .status 0#32)).script = [.wr .status 0#32] := ⟨rfl, rfl⟩
theorem wit_cap_read_and_write : (acting (ready 1#32) (.rd .cap)).script = [.rd .cap] ∧
    (acting (ready 1#32) (.wr .cap 0#32)).script = [.wr .cap 0#32] := ⟨rfl, rfl⟩
theorem wit_operand_write : (acting State.reset (.wr (.operand .nblk) 0xffffffff#32)).script =
    [.wr (.operand .nblk) 0xffffffff#32] ∧ Operand.kptr ≠ .nblk := ⟨rfl, by decide⟩
theorem wit_bad_access : (8 ≠ 32 ∨ 0 % 4 ≠ 0 ∨ 0x24 ≤ 0) ∧ (32 ≠ 32 ∨ 0x21 % 4 ≠ 0 ∨ 0x24 ≤ 0x21) ∧
    (32 ≠ 32 ∨ 0x24 % 4 ≠ 0 ∨ 0x24 ≤ 0x24) ∧
    (acting State.reset (.regRead 0x24 32)).script = [.regRead 0x24 32] := ⟨by decide, by decide, by decide, rfl⟩
theorem wit_operand_read : let s := acting (ready 1#32) (.rd (.operand .nblk))
    s.script = [.rd (.operand .nblk)] ∧ (s.operand .nblk).written = true := ⟨rfl, rfl⟩
theorem wit_operand_read_not_written : let s := acting State.reset (.rd (.operand .kptr))
    s.script = [.rd (.operand .kptr)] ∧ (s.operand .kptr).written = false := ⟨rfl, rfl⟩
theorem wit_subkeys_read : (acting (ready 1#32) (.regRead 0x08 32)).script = [.regRead 0x08 32] ∧
    (∃ t, step (acting (ready 1#32) (.regRead 0x08 32)) = .next t) ∧
    (∃ r, step (acting State.reset (.regRead 0x0C 32)) = .refused r) := ⟨rfl, ⟨_, rfl⟩, ⟨_, rfl⟩⟩

/-! HostWritesAreStored, HostAccessesOutsidePlainMemoryStop: to the last address, past it, into a hole, beside a hole. -/
theorem wit_host_write : let s := acting (ready 1#32) (.memWrite 0xffffffff [0xaa#8])
    s.script = [.memWrite 0xffffffff [0xaa#8]] ∧ s.mem.wf = true ∧ Fits s 0xffffffff [0xaa#8].length ∧
    PlainRegion s 0xffffffff [0xaa#8].length ∧
    PlainRegion (holed 1#32) 0x20e 1 ∧ PlainRegion (holed 1#32) 0x210 1 ∧ 0 < 1 ∧ ¬ InRange 0x210 0x20f 1 := by
  exact ⟨rfl, by decide⟩
theorem wit_host_access_past_end : let s := acting (ready 1#32) (.memRead 0xffffffff 2)
    s.script = [.memRead 0xffffffff 2] ∧ ¬ Fits s 0xffffffff 2 := ⟨rfl, by decide⟩
theorem wit_host_access_in_hole : Fits (holed 1#32) 0x20e 2 ∧ ¬ PlainRegion (acting (holed 1#32) (.memRead 0x20e 2)) 0x20e 2 ∧
    ¬ PlainRegion (acting (holed 1#32) (.memWrite 0x20e [0#8, 0#8])) 0x20e 2 ∧
    (acting (holed 1#32) (.memRead 0x20e 2)).script = [.memRead 0x20e 2] ∧
    (acting (holed 1#32) (.memWrite 0x20e [0#8, 0#8])).script = [.memWrite 0x20e [0#8, 0#8]] ∧
    [0#8, 0#8].length = 2 := by
  exact ⟨by decide, by decide, by decide, rfl, rfl, rfl⟩

/-! PlatformResetEndsTheInstance, ParametersNeverChange, StepKeepsTheInvariant, and the invariant in StatusShowsTheFields. -/
theorem wit_platform_reset : (acting (ready 1#32) .platformReset).script = [.platformReset] := rfl
theorem wit_invariant : Inv (ready 2#32) ∧ Inv { ready 2#32 with dir := .decrypt, nr := 32#6, err := 1#4 } ∧
    Inv (keyed 16#32) ∧ Inv (narrow 1#32) := by
  refine ⟨?_, ?_, ?_, ?_⟩ <;> decide
theorem wit_invariant_step : Inv (acting (ready 1#32) (.wr .cmd 4#32)) ∧
    ∃ t, step (acting (ready 1#32) (.wr .cmd 4#32)) = .next t := ⟨by decide, _, rfl⟩

/-! ## The two long ones -/

/-- Section 3.3: the last subkey, RK[143]; the array starts at RK[0]. -/
theorem test_kse_enc_rk : after (exec .kseEnc (keyed 16#32))
    (fun t => t.rkAt 0 == 0x003a0fd4#32 && t.rkAt 143 == 0xdf69029d#32) = true := by
  decide +kernel

/-- Section 2: the known answer of K128. -/
theorem test_known_answer :
    encBlock tables (fun k => (keyExpand tables k128).1.getD k 0#32) 24 plain = cipher := by decide +kernel

end Sys2Proof.Tests
end

namespace Sys2Proof.Machine

/-! # The rotations (00_scope.md R14) -/

/-- `ROL` is the rotation of the library. -/
theorem rol_eq_rotateLeft (a : Word) (n : Nat) : rol a n = a.rotateLeft n := by
  rw [rol, BitVec.rotateLeft_def]
  split
  · next h => rw [h, BitVec.shiftLeft_zero, BitVec.ushiftRight_eq_zero (Nat.le_refl 32), BitVec.or_zero]
  · rfl

/-- Only the amount mod 32 matters. -/
theorem rol_mod (a : Word) (n : Nat) : rol a (n % 32) = rol a n := by
  simp only [rol_eq_rotateLeft, BitVec.rotateLeft_mod_eq_rotateLeft]

/-- Rotating by a multiple of 32 changes nothing. -/
theorem rol_of_dvd (a : Word) {n : Nat} (h : 32 ∣ n) : rol a n = a := by
  rw [rol, if_pos (Nat.mod_eq_zero_of_dvd h)]

/-- Bit `i` of a rotated word is the bit `n` places below it, counted round the word. -/
theorem getLsbD_rol (a : Word) (n : Nat) {i : Nat} (h : i < 32) :
    (rol a n).getLsbD i = a.getLsbD ((i + (32 - n % 32)) % 32) := by
  rw [rol_eq_rotateLeft, BitVec.getLsbD_rotateLeft]
  by_cases hi : i < n % 32
  · simp only [hi, decide_true, cond_true]
    congr 1
    omega
  · simp only [hi, h, decide_true, decide_false, cond_false, Bool.true_and]
    congr 1
    omega

/-- Two rotations one after the other are one by the sum of the amounts. -/
theorem rol_rol (a : Word) (m n : Nat) : rol (rol a m) n = rol a (m + n) := by
  refine BitVec.eq_of_getLsbD_eq fun i hi => ?_
  rw [getLsbD_rol _ _ hi, getLsbD_rol _ _ (Nat.mod_lt _ (by decide)), getLsbD_rol _ _ hi]
  congr 1
  omega

/-- `ROR` undoes `ROL` by the same amount. -/
theorem ror_rol (a : Word) (n : Nat) : ror (rol a n) n = a := by
  rw [ror, rol_rol]
  exact rol_of_dvd a (by omega)

/-- `ROL` undoes `ROR` by the same amount. -/
theorem rol_ror (a : Word) (n : Nat) : rol (ror a n) n = a := by
  rw [ror, rol_rol]
  exact rol_of_dvd a (by omega)

/-- Settles O26: rotations compose by adding their amounts, and `ROR` is the rotation by the amount that completes
a multiple of 32. -/
theorem rotationsUndoEachOther : Obligations.RotationsUndoEachOther := fun a n =>
  ⟨ror_rol a n, rol_ror a n, rol_of_dvd a (Nat.dvd_refl 32), (rol_mod a n).symm, rfl⟩

/-! # What a step can do, said once -/

/-- What the next host action or reset can leave of `s`, the guards it passed included (30_encoding.md R88,
70_reset_and_hazards.md R220). -/
inductive ActionEffect (s : State) : State → Prop
  /-- A write of CAP or STATUS (10_state.md R41). -/
  | ignored : ActionEffect s s
  /-- A read, of a register or of MEM. -/
  | yielded (y : Yield) : ActionEffect s (s.yielding y)
  /-- A write of an operand register (10_state.md R41). -/
  | operandWritten (o : Operand) (v : Word) : ActionEffect s (s.setOperand o v)
  /-- A write of CMD with a command's word (10_state.md R24). -/
  | commandDone (i : Instr) {t : State} (h : exec i s = .next t) : ActionEffect s t
  /-- A write to MEM, inside it (20_memory.md R56). -/
  | memWritten (addr : Nat) (bytes : List Byte) (h : Fits s addr bytes.length) :
    ActionEffect s (s.withMem (s.mem.write addr bytes))
  /-- The platform's reset. -/
  | reset : ActionEffect s s.resetByPlatform

theorem issue_effect {w : Word} {s t : State} (h : issue w s = .next t) : ActionEffect s t := by
  unfold issue at h
  split at h
  · next i _ => exact .commandDone i h
  · cases h

theorem writeReg_effect {r : Reg} {v : Word} {s t : State} (h : writeReg r v s = .next t) : ActionEffect s t := by
  cases r with
  | cap => cases h; exact .ignored
  | status => cases h; exact .ignored
  | cmd => exact issue_effect h
  | operand o => cases h; exact .operandWritten o v

theorem readReg_effect {r : Reg} {s t : State} (h : readReg r s = .next t) : ActionEffect s t := by
  cases r with
  | cap => cases h; exact .yielded _
  | cmd => cases h; exact .yielded _
  | status => cases h; exact .yielded _
  | operand o =>
    obtain ⟨-, hnext⟩ := (require_eq_next _ _ t).mp h
    cases hnext
    exact .yielded _

/-- A MEM access of the host completes only inside MEM and on plain memory, and then with its effect (log entry 15). -/
theorem hostMemAccess_eq_next (s : State) (addr n : Nat) (done t : State) :
    hostMemAccess s addr n done = .next t ↔ Fits s addr n ∧ PlainRegion s addr n ∧ t = done := by
  unfold hostMemAccess
  split
  · next hfit => simp [require_eq_next, hfit, eq_comm (a := t)]
  · next hfit => simp [hfit]

theorem act_effect {a : Action} {s t : State} (h : act a s = .next t) : ActionEffect s t := by
  cases a with
  | regWrite offset width v =>
    simp only [act] at h
    split at h
    · exact writeReg_effect h
    · cases h
  | regRead offset width =>
    simp only [act] at h
    split at h
    · exact readReg_effect h
    · cases h
  | memWrite addr bytes =>
    obtain ⟨hfit, -, rfl⟩ := (hostMemAccess_eq_next s addr _ _ t).mp h
    exact .memWritten addr bytes hfit
  | memRead addr n =>
    obtain ⟨-, -, rfl⟩ := (hostMemAccess_eq_next s addr n _ t).mp h
    exact .yielded _
  | platformReset => cases h; exact .reset

/-- A step does nothing, with no action to come, or has the effect of an action from the state in which the action
has been taken off the script (log entry 9). -/
theorem step_effect {s t : State} (h : step s = .next t) : t = s ∨ ∃ rest, ActionEffect (s.taken rest) t := by
  unfold step at h
  split at h
  · cases h; exact .inl rfl
  · next rest _ => exact .inr ⟨rest, act_effect h⟩

/-! # The parameters and the platform's map (00_scope.md R10, R11) -/

theorem keySetup_sameOutside {dir : Direction} {s t : State} (h : keySetup dir s = .next t) : SameOutside s t := by
  obtain ⟨-, rfl⟩ | ⟨-, rfl⟩ := (keySetup_eq_next dir s t).mp h
  · exact ⟨rfl, rfl, rfl, rfl⟩
  · exact ⟨rfl, rfl, rfl, rfl⟩

/-- No command changes what is no part of CORE's state in the spec. -/
theorem exec_sameOutside {i : Instr} {s t : State} (h : exec i s = .next t) : SameOutside s t := by
  cases i with
  | kseEnc => exact keySetup_sameOutside h
  | kseDec => exact keySetup_sameOutside h
  | kclr => rw [(execKclr_eq_next s t).mp h]; exact ⟨rfl, rfl, rfl, rfl⟩
  | blk xa => obtain ⟨-, rfl⟩ := (execBlk_eq_next xa s t).mp h; exact ⟨rfl, rfl, rfl, rfl⟩
  | pcl xb xa ac => obtain ⟨-, rfl⟩ := (execPcl_eq_next xb xa ac s t).mp h; exact ⟨rfl, rfl, rfl, rfl⟩

theorem ActionEffect.params_platform {s t : State} (h : ActionEffect s t) :
    t.params = s.params ∧ t.platform = s.platform := by
  cases h with
  | ignored => exact ⟨rfl, rfl⟩
  | yielded y => exact ⟨rfl, rfl⟩
  | operandWritten o v => exact ⟨State.setOperand_params s o v, State.setOperand_platform s o v⟩
  | commandDone i h =>
    obtain ⟨hparams, hplatform, -⟩ := exec_sameOutside h
    exact ⟨hparams, hplatform⟩
  | memWritten addr bytes h => exact ⟨rfl, rfl⟩
  | reset => exact ⟨rfl, rfl⟩

/-- Settles O44: no effect of an action changes the parameters or the platform's map. -/
theorem parametersNeverChange : Obligations.ParametersNeverChange := fun s t h => by
  obtain rfl | ⟨rest, heffect⟩ := step_effect h
  · exact ⟨rfl, rfl⟩
  · exact heffect.params_platform

/-! # The invariant (10_state.md R25, R26, R29, R30, R33, R38) -/

/-! Each update of the state keeps the invariant. -/

section
variable {s : State} (h : Inv s)
include h

theorem Inv.taken (rest : List Action) : Inv (s.taken rest) := h

theorem Inv.yielding (y : Yield) : Inv (s.yielding y) := h

theorem Inv.setOperand (o : Operand) (v : Word) : Inv (s.setOperand o v) := by
  cases o <;> exact h

theorem Inv.withErr {code : BitVec 4} (hcode : code = 0#4 ∨ code = 1#4) : Inv (s.withErr code) := by
  obtain ⟨hparams, hwf, hbelow, hlanes, hkeyed, hunkeyed, -⟩ := h
  exact ⟨hparams, hwf, hbelow, hlanes, hkeyed, hunkeyed, hcode⟩

theorem Inv.withMem {m : Memory} (hwf : m.wf = true) (hbelow : m.below s.memSize = true) : Inv (s.withMem m) := by
  obtain ⟨hparams, -, -, hlanes, hkeyed, hunkeyed, herr⟩ := h
  exact ⟨hparams, hwf, hbelow, hlanes, hkeyed, hunkeyed, herr⟩

/-- The free transient state has the words of W lanes (10_state.md R33). -/
theorem Inv.dropTransient : Inv s.dropTransient := by
  obtain ⟨hparams, hwf, hbelow, -, hkeyed, hunkeyed, herr⟩ := h
  exact ⟨hparams, hwf, hbelow, by simp [freeTransient], hkeyed, hunkeyed, herr⟩

theorem Inv.install (dir : Direction) (rk : List Word) {klen : Nat} (hk : keyLenOk klen = true) :
    Inv (s.install dir rk (roundCount klen)) := by
  obtain ⟨hparams, hwf, hbelow, hlanes, -, -, herr⟩ := h
  refine ⟨hparams, hwf, hbelow, hlanes, fun _ => ?_, nofun, herr⟩
  obtain ⟨-, hn⟩ | ⟨-, hn⟩ | ⟨-, hn⟩ := roundCount_of_ok klen hk <;> simp [hn]

theorem Inv.destroy : Inv s.destroy := by
  obtain ⟨hparams, hwf, hbelow, hlanes, -, -, herr⟩ := h
  exact ⟨hparams, hwf, hbelow, hlanes, nofun, fun _ => ⟨rfl, rfl⟩, herr⟩

theorem Inv.resetByPlatform : Inv s.resetByPlatform := by
  obtain ⟨hparams, -⟩ := h
  obtain ⟨hwf, hbelow⟩ := Memory.wf_ofCells s.memSize (Config.freeCells s.draws)
  exact ⟨hparams, hwf, hbelow, by simp [freeTransient], nofun, fun _ => ⟨rfl, rfl⟩, .inl rfl⟩

/-! What a completed command or action leaves is made of these updates. -/

theorem Inv.keyInstalled (dir : Direction) (hready : KeyReady s) : Inv (keyInstalled dir s) := by
  obtain ⟨-, hlen, -⟩ := hready
  have hkey : keyLenOk s.keyBytes.length = true := by rwa [State.keyBytes, Memory.length_read]
  exact ((h.install dir _ hkey).dropTransient).withErr (.inl rfl)

theorem Inv.of_keySetup {dir : Direction} {t : State} (ht : keySetup dir s = .next t) : Inv t := by
  obtain ⟨-, rfl⟩ | ⟨hready, rfl⟩ := (keySetup_eq_next dir s t).mp ht
  · exact h.withErr (.inr rfl)
  · exact h.keyInstalled dir hready

theorem Inv.blkDone {xa : Bool} (hready : BlkReady xa s) : Inv (blkDone xa s) := by
  have ⟨_, hwf, hbelow, _⟩ := h
  obtain ⟨-, -, ⟨-, hfit, -⟩, -⟩ := hready
  exact ((h.withMem (oneBlock_wf s _ _ _ _ _ _ hwf)
    (oneBlock_below s _ _ _ _ _ _ hbelow hfit)).dropTransient).withErr (.inl rfl)

/-- Without blocks MEM is as before, and with blocks their region fits (42_parallel_lanes.md R164). -/
theorem pclBlocks_below_of_ready {xb xa ac : Bool} (hready : PclReady xb xa ac s) :
    (pclBlocks xb xa ac s s.blockCount).below s.memSize = true := by
  obtain ⟨-, -, hbelow, -⟩ := h
  obtain ⟨-, -, hregions⟩ := hready
  obtain hzero | hpos := Nat.eq_zero_or_pos s.blockCount
  · rw [hzero]
    exact hbelow
  · obtain ⟨-, ⟨-, hfit, -⟩, -⟩ := hregions hpos
    exact pclBlocks_below xb xa ac s _ hbelow hfit

theorem Inv.pclDone {xb xa ac : Bool} (hready : PclReady xb xa ac s) : Inv (pclDone xb xa ac s) := by
  have ⟨_, hwf, _⟩ := h
  exact ((h.withMem (pclBlocks_wf xb xa ac s _ hwf) (pclBlocks_below_of_ready h hready)).dropTransient).withErr
    (.inl rfl)

theorem Inv.of_exec {i : Instr} {t : State} (ht : exec i s = .next t) : Inv t := by
  cases i with
  | kseEnc => exact h.of_keySetup ht
  | kseDec => exact h.of_keySetup ht
  | kclr => rw [(execKclr_eq_next s t).mp ht]; exact h.destroy.withErr (.inl rfl)
  | blk xa =>
    obtain ⟨hready, rfl⟩ := (execBlk_eq_next xa s t).mp ht
    exact h.blkDone hready
  | pcl xb xa ac =>
    obtain ⟨hready, rfl⟩ := (execPcl_eq_next xb xa ac s t).mp ht
    exact h.pclDone hready

theorem Inv.of_actionEffect {t : State} (ht : ActionEffect s t) : Inv t := by
  cases ht with
  | ignored => exact h
  | yielded y => exact h.yielding y
  | operandWritten o v => exact h.setOperand o v
  | commandDone i ht => exact h.of_exec ht
  | memWritten addr bytes hfit =>
    have ⟨_, hwf, hbelow, _⟩ := h
    exact h.withMem (Memory.wf_write bytes s.mem addr hwf) (Memory.below_write bytes s.mem addr hbelow hfit)
  | reset => exact h.resetByPlatform

end

/-- Settles O45: every effect of an action is made of updates that keep the invariant. -/
theorem stepKeepsTheInvariant : Obligations.StepKeepsTheInvariant := fun s t h ht => by
  obtain rfl | ⟨rest, heffect⟩ := step_effect ht
  · exact h
  · exact (h.taken rest).of_actionEffect heffect

/-- Settles O43, clause by clause at the reset values (10_state.md R39). -/
theorem invariantHoldsAtReset : Obligations.InvariantHoldsAtReset := by
  obtain ⟨hwf, hbelow⟩ := State.reset_mem_wf
  exact ⟨by decide, hwf, hbelow, rfl, nofun, fun _ => ⟨rfl, rfl⟩, .inl rfl⟩

end Sys2Proof.Machine

namespace Sys2Proof.Machine

/-! # What a completed command leaves, said once -/

/-- What the command `i`, when it completes, leaves of `s`, the preconditions it passed included (40_key_schedule.md
R100 to R102, 41_round_engine.md R144, 42_parallel_lanes.md R163). -/
inductive CommandEffect (s : State) : Instr → State → Prop
  /-- A key setup reports InvalidKeyLength (60_exceptions.md R191). -/
  | keyLengthBad {i : Instr} (hi : i = .kseEnc ∨ i = .kseDec) (h : KeyLengthBad s) : CommandEffect s i (s.withErr 1#4)
  /-- A key setup installs the subkeys. -/
  | keyInstalled {i : Instr} {dir : Direction}
    (hi : (i = .kseEnc ∧ dir = .encrypt) ∨ (i = .kseDec ∧ dir = .decrypt)) (h : KeyReady s) :
    CommandEffect s i (keyInstalled dir s)
  /-- KCLR destroys what a key setup made. -/
  | destroyed : CommandEffect s .kclr (s.destroy.withErr 0#4)
  /-- BLK writes its output block. -/
  | blkDone {xa : Bool} (h : BlkReady xa s) : CommandEffect s (.blk xa) (blkDone xa s)
  /-- PCL writes its output blocks. -/
  | pclDone {xb xa ac : Bool} (h : PclReady xb xa ac s) : CommandEffect s (.pcl xb xa ac) (pclDone xb xa ac s)

theorem exec_effect {i : Instr} {s t : State} (h : exec i s = .next t) : CommandEffect s i t := by
  cases i with
  | kseEnc =>
    obtain ⟨hbad, rfl⟩ | ⟨hready, rfl⟩ := (keySetup_eq_next .encrypt s t).mp h
    · exact .keyLengthBad (.inl rfl) hbad
    · exact .keyInstalled (.inl ⟨rfl, rfl⟩) hready
  | kseDec =>
    obtain ⟨hbad, rfl⟩ | ⟨hready, rfl⟩ := (keySetup_eq_next .decrypt s t).mp h
    · exact .keyLengthBad (.inr rfl) hbad
    · exact .keyInstalled (.inr ⟨rfl, rfl⟩) hready
  | kclr => rw [(execKclr_eq_next s t).mp h]; exact .destroyed
  | blk xa => obtain ⟨hready, rfl⟩ := (execBlk_eq_next xa s t).mp h; exact .blkDone hready
  | pcl xb xa ac => obtain ⟨hready, rfl⟩ := (execPcl_eq_next xb xa ac s t).mp h; exact .pclDone hready

/-! # The operand registers, KEY_VALID, DIR, NR, RK and ERR after a command (10_state.md R26 to R31, R42) -/

theorem exec_sameOperands {i : Instr} {s t : State} (h : exec i s = .next t) : SameOperands s t := by
  intro o
  cases exec_effect h with
  | keyLengthBad hi hbad => exact State.withErr_operand s _ o
  | keyInstalled hi hready => simp [keyInstalled]
  | destroyed => simp
  | blkDone hready => simp [blkDone]
  | pclDone hready => simp [pclDone]

/-- Settles O28: every completed command leaves each operand register by name as it was. -/
theorem noCommandWritesAnOperandRegister : Obligations.NoCommandWritesAnOperandRegister := fun _ _ _ h =>
  have hsame := exec_sameOperands h
  ⟨hsame .kptr, hsame .klen, hsame .iptr, hsame .aptr, hsame .optr, hsame .nblk⟩

theorem blkDone_sameInstance (xa : Bool) (s : State) : SameInstance s (blkDone xa s) := by
  simp [SameInstance, blkDone]

theorem pclDone_sameInstance (xb xa ac : Bool) (s : State) : SameInstance s (pclDone xb xa ac s) := by
  simp [SameInstance, pclDone]

/-- Settles O30: BLK and PCL complete in one way only, and no command touches the model's own fields. -/
theorem transformsNeverChangeTheInstance : Obligations.TransformsNeverChangeTheInstance := by
  refine ⟨fun xa s t h => ?_, fun xb xa ac s t h => ?_, fun _ _ _ h => exec_sameOutside h⟩
  · obtain ⟨-, rfl⟩ := (execBlk_eq_next xa s t).mp h
    exact blkDone_sameInstance xa s
  · obtain ⟨-, rfl⟩ := (execPcl_eq_next xb xa ac s t).mp h
    exact pclDone_sameInstance xb xa ac s

/-- Settles O33: a bad key length is the only effect that writes 1. -/
theorem errIsTheOutcomeOfTheLastCommand : Obligations.ErrIsTheOutcomeOfTheLastCommand := by
  refine ⟨rfl, fun i s t h => ?_⟩
  cases exec_effect h with
  | keyLengthBad hi hbad =>
    obtain ⟨-, hlen⟩ := hbad
    exact .inl ⟨hi, hlen, rfl⟩
  | keyInstalled hi hready =>
    obtain ⟨-, hlen, -⟩ := hready
    exact .inr ⟨by simp [hlen], rfl⟩
  | destroyed => exact .inr ⟨by simp, rfl⟩
  | blkDone hready => exact .inr ⟨by simp, rfl⟩
  | pclDone hready => exact .inr ⟨by simp, rfl⟩

/-! # Register accesses of the host (10_state.md R22, R24, R41) -/

/-- The registers of the map stand at the multiples of 4 below 0x24. -/
theorem regOffset_aligned (r : Reg) : r.offset % 4 = 0 ∧ r.offset < 0x24 := by
  rcases r with _ | _ | _ | o
  · decide
  · decide
  · decide
  · cases o <;> decide

/-- Only a register's own offset reaches it. -/
theorem offset_of_regAt {offset : Nat} {r : Reg} (h : regAt offset = some r) : offset = r.offset := by
  unfold regAt at h
  split at h <;> cases h <;> rfl

/-- Any but one aligned 32-bit access at an offset of the map reaches no register. -/
theorem accessedReg_eq_none {offset width : Nat} (h : width ≠ 32 ∨ offset % 4 ≠ 0 ∨ 0x24 ≤ offset) :
    accessedReg offset width = none := by
  by_cases hw : width = 32
  · rw [accessedReg, if_pos hw, Option.eq_none_iff_forall_ne_some]
    intro r hr
    obtain ⟨haligned, hlt⟩ := regOffset_aligned r
    rw [← offset_of_regAt hr] at haligned hlt
    omega
  · rw [accessedReg, if_neg hw]

section
variable {offset width : Nat}

theorem act_regWrite {r : Reg} (h : accessedReg offset width = some r) (v : Word) (s : State) :
    act (.regWrite offset width v) s = writeReg r v s := by
  simp only [act, h]

theorem act_regRead {r : Reg} (h : accessedReg offset width = some r) (s : State) :
    act (.regRead offset width) s = readReg r s := by
  simp only [act, h]

theorem act_regWrite_of_none (h : accessedReg offset width = none) (v : Word) (s : State) :
    act (.regWrite offset width v) s = .refused (.badRegisterAccess offset width) := by
  simp only [act, h]

theorem act_regRead_of_none (h : accessedReg offset width = none) (s : State) :
    act (.regRead offset width) s = .refused (.badRegisterAccess offset width) := by
  simp only [act, h]

end

theorem step_wr {s : State} {r : Reg} {v : Word} {rest : List Action} (h : s.script = .wr r v :: rest) :
    step s = writeReg r v (s.taken rest) := by
  rw [step_cons s _ rest h, Action.wr, act_regWrite (accessedReg_offset r)]

theorem step_rd {s : State} {r : Reg} {rest : List Action} (h : s.script = .rd r :: rest) :
    step s = readReg r (s.taken rest) := by
  rw [step_cons s _ rest h, Action.rd, act_regRead (accessedReg_offset r)]

theorem issue_of_decode {w : Word} {i : Instr} (h : decode w = .command i) (s : State) : issue w s = exec i s := by
  simp only [issue, h]

/-- An operand register the host has written reads as its 32 bits. -/
theorem readReg_operand_of_written {s : State} {o : Operand} (h : (s.operand o).written = true) :
    readReg (.operand o) s = .next (s.yielding (.word (s.operand o).value)) := by
  simp [readReg, require, needsOperand, h]

/-- One never written since reset is refused (60_exceptions.md R197 (h)). -/
theorem readReg_operand_of_not_written {s : State} {o : Operand} (h : (s.operand o).written = false) :
    readReg (.operand o) s = .refused (.operandNotWritten o) := by
  simp [readReg, require, needsOperand, h]

/-- Settles O5: the write of CMD is the issue of its word, and the read of CMD yields 0. -/
theorem stepRunsTheIssuedCommand : Obligations.StepRunsTheIssuedCommand :=
  ⟨fun _ _ _ _ hscript hdecode => (step_wr hscript).trans (issue_of_decode hdecode _),
    fun _ _ hscript => step_rd hscript⟩

/-- Settles O36: the outcomes of `writeReg` and `readReg`, and the accesses that reach no register. -/
theorem registerAccessRules : Obligations.RegisterAccessRules := by
  refine fun s rest v => ⟨?_, step_rd, fun o h => ?_, fun offset width hbad h => ?_⟩
  · rintro (h | h)
    · exact step_wr h
    · exact step_wr h
  · have hothers : ∀ p, p ≠ o → ((s.taken rest).setOperand o v).operand p = s.operand p := fun p hp => by
      rw [State.setOperand_operand, if_neg hp, State.taken_operand]
    exact ⟨_, step_wr h, State.setOperand_operand_self _ o v, hothers, by simp [SameInstance], by simp, by simp⟩
  · have hnone := accessedReg_eq_none hbad
    obtain h | h := h
    · rw [step_cons s _ rest h, act_regWrite_of_none hnone]
    · rw [step_cons s _ rest h, act_regRead_of_none hnone]

/-- Settles O37: taking the read off the script leaves the operand registers alone. -/
theorem operandReadsNeedAWrite : Obligations.OperandReadsNeedAWrite := by
  intro s o rest h
  rw [step_rd h, ← State.taken_operand s rest o]
  exact ⟨readReg_operand_of_written, readReg_operand_of_not_written⟩

/-! # RK and the transient state behind the register reads (10_state.md R27, R33) -/

section
variable (s : State) (rk : Vector Word 192) (tr : Transient)

theorem State.operand_of_rk_transient (o : Operand) :
    ({ s with rk := rk, transient := tr } : State).operand o = s.operand o := by
  cases o <;> rfl

/-- The outcome of a register read is the same with any other RK and transient state. -/
theorem readReg_of_rk_transient (r : Reg) :
    (∀ t, readReg r s = .next t →
      readReg r { s with rk := rk, transient := tr } = .next { t with rk := rk, transient := tr }) ∧
    (∀ q, readReg r s = .refused q → readReg r { s with rk := rk, transient := tr } = .refused q) := by
  cases r with
  | cap => exact ⟨by rintro _ ⟨⟩; rfl, nofun⟩
  | cmd => exact ⟨by rintro _ ⟨⟩; rfl, nofun⟩
  | status => exact ⟨by rintro _ ⟨⟩; rfl, nofun⟩
  | operand o =>
    have hsame := State.operand_of_rk_transient s rk tr o
    cases hw : (s.operand o).written with
    | true =>
      rw [readReg_operand_of_written hw, readReg_operand_of_written (by rw [hsame, hw]), hsame]
      exact ⟨by rintro _ ⟨⟩; rfl, nofun⟩
    | false =>
      rw [readReg_operand_of_not_written hw, readReg_operand_of_not_written (by rw [hsame, hw])]
      exact ⟨fun _ h => (nomatch h), fun _ h => h⟩

end

/-- Settles O38: an access either reaches a register, whose read does not depend on them, or is refused. -/
theorem subkeysAreUnreadable : Obligations.SubkeysAreUnreadable := by
  intro s offset width rest rk tr h
  have hother : step { s with rk := rk, transient := tr } =
      act (.regRead offset width) { s.taken rest with rk := rk, transient := tr } :=
    step_cons { s with rk := rk, transient := tr } _ rest h
  rw [step_cons s _ rest h, hother]
  cases hreg : accessedReg offset width with
  | some r =>
    simp only [act_regRead hreg]
    exact readReg_of_rk_transient (s.taken rest) rk tr r
  | none =>
    simp only [act_regRead_of_none hreg]
    exact ⟨fun _ h => (nomatch h), fun _ h => h⟩

/-! # STATUS and CAP (10_state.md R23, R25) -/

/-- A value placed at bit `n` of a word is read back from there. -/
theorem extractLsb'_placed_self {w : Nat} (x : BitVec w) {n : Nat} (h : n + w ≤ 32) :
    (x.setWidth 32 <<< n).extractLsb' n w = x := by
  ext i hi
  have hn : n + i < 32 := by omega
  simp [hi, hn, BitVec.getLsbD_eq_getElem]

/-- A field that a value placed at bit `n` of a word does not reach reads 0. -/
theorem extractLsb'_placed_apart {w : Nat} (x : BitVec w) {n start len : Nat}
    (h : start + len ≤ n ∨ n + w ≤ start) : (x.setWidth 32 <<< n).extractLsb' start len = 0#len := by
  ext i hi
  obtain h | h := h
  · have hbelow : start + i < n := by omega
    simp [hbelow]
  · have habove : w ≤ start + i - n := by omega
    simp [BitVec.getLsbD_of_ge x _ habove]

/-- STATUS as four values, each placed at its field. -/
theorem State.statusWord_eq (s : State) :
    s.statusWord = (BitVec.ofBool s.keyValid).setWidth 32 <<< 0
      ||| (BitVec.ofBool (s.keyValid && s.dir.bit)).setWidth 32 <<< 1
      ||| s.err.setWidth 32 <<< 4
      ||| (if s.keyValid then s.nr else 0#6).setWidth 32 <<< 8 := by
  rw [State.statusWord, BitVec.shiftLeft_zero, apply_ite (BitVec.setWidth 32), BitVec.setWidth_zero]

section
variable (s : State)

theorem State.statusWord_keyValid : s.statusWord.getLsbD 0 = s.keyValid := by
  simp [State.statusWord_eq]

theorem State.statusWord_dir : s.statusWord.getLsbD 1 = (s.keyValid && s.dir.bit) := by
  simp [State.statusWord_eq]

theorem State.statusWord_err : s.statusWord.extractLsb' 4 4 = s.err := by
  simp (disch := omega) only [State.statusWord_eq, BitVec.extractLsb'_or, extractLsb'_placed_self,
    extractLsb'_placed_apart, BitVec.zero_or, BitVec.or_zero]

theorem State.statusWord_nr : s.statusWord.extractLsb' 8 6 = (if s.keyValid then s.nr else 0#6) := by
  simp (disch := omega) only [State.statusWord_eq, BitVec.extractLsb'_or, extractLsb'_placed_self,
    extractLsb'_placed_apart, BitVec.zero_or, BitVec.or_zero]

/-- Bits that lie in no field of STATUS are 0. -/
theorem State.statusWord_reserved {start len : Nat} (h : (2 ≤ start ∧ start + len ≤ 4) ∨ 14 ≤ start) :
    s.statusWord.extractLsb' start len = 0#len := by
  simp (disch := omega) only [State.statusWord_eq, BitVec.extractLsb'_or, extractLsb'_placed_apart, BitVec.or_self]

theorem State.statusWord_busy : s.statusWord.getLsbD 31 = false := by
  simp [State.statusWord_eq]

end

/-- Where the invariant holds, NR reads one of the three round counts with KEY_VALID 1, and 0 without. -/
theorem Inv.statusWord_nr {s : State} (h : Inv s) :
    s.statusWord.extractLsb' 8 6 = 0#6 ∨ s.statusWord.extractLsb' 8 6 = 24#6 ∨
    s.statusWord.extractLsb' 8 6 = 28#6 ∨ s.statusWord.extractLsb' 8 6 = 32#6 := by
  obtain ⟨-, -, -, -, hkeyed, -, -⟩ := h
  rw [State.statusWord_nr]
  split
  · next hvalid => exact .inr (hkeyed hvalid)
  · exact .inl rfl

/-- With KEY_VALID 0 and ERR 0, STATUS is 0. -/
theorem State.statusWord_eq_zero {s : State} (hvalid : s.keyValid = false) (herr : s.err = 0#4) :
    s.statusWord = 0x00000000#32 := by
  simp [State.statusWord, hvalid, herr]

/-- Settles O34: the fields of STATUS one by one, and its accesses. -/
theorem statusShowsTheFields : Obligations.StatusShowsTheFields := by
  refine ⟨State.statusWord_eq_zero rfl rfl, fun s => ⟨fun h => ⟨h.statusWord_nr, ?_⟩, s.statusWord_keyValid,
    s.statusWord_dir, s.statusWord_reserved (by decide), s.statusWord_err, s.statusWord_nr,
    s.statusWord_reserved (by decide), s.statusWord_busy, fun _ hread => step_rd hread,
    fun _ _ hwrite => step_wr hwrite⟩⟩
  obtain ⟨-, -, -, -, -, -, herr⟩ := h
  rwa [s.statusWord_err]

/-- Settles O35: CAP takes the batch width mod 16 only, so its fields are looked at for sixteen values. -/
theorem capIsConstant : Obligations.CapIsConstant := by
  refine ⟨fun lanes => ?_, by decide, fun _ _ hread => step_rd hread, fun _ _ _ hwrite => step_wr hwrite⟩
  have hlt : lanes % 16 < 16 := Nat.mod_lt _ (by decide)
  unfold capWord
  generalize lanes % 16 = k at hlt ⊢
  decide +revert

/-! # MEM accesses of the host that have no effect (log entry 15) -/

section
variable {s : State} {addr n : Nat} (done : State)

theorem hostMemAccess_of_not_fits (h : ¬ Fits s addr n) :
    hostMemAccess s addr n done = .fault (.noSuchAddress addr n) := if_neg h

theorem hostMemAccess_of_not_plain (hfit : Fits s addr n) (h : ¬ PlainRegion s addr n) :
    hostMemAccess s addr n done = .refused (.hostAccessNotPlain addr n) := by
  rw [hostMemAccess, if_pos hfit, decide_eq_false h]
  rfl

end

/-- A MEM access of the host is one step, whichever way the bytes go. -/
theorem step_memAccess {s : State} {addr : Nat} {bytes : List Byte} {rest : List Action}
    (h : s.script = .memWrite addr bytes :: rest ∨ s.script = .memRead addr bytes.length :: rest) :
    ∃ done, step s = hostMemAccess (s.taken rest) addr bytes.length done := by
  obtain h | h := h
  · exact ⟨_, step_cons s _ rest h⟩
  · exact ⟨_, step_cons s _ rest h⟩

/-- Settles O40: MEM and the platform's map are the same with the access taken off the script. -/
theorem hostAccessesOutsidePlainMemoryStop : Obligations.HostAccessesOutsidePlainMemoryStop := by
  rintro s addr _ bytes rest rfl h
  obtain ⟨done, hstep⟩ := step_memAccess h
  rw [hstep]
  exact ⟨hostMemAccess_of_not_fits done, hostMemAccess_of_not_plain done⟩

/-! # Reset (10_state.md R39, 70_reset_and_hazards.md R220) -/

theorem State.reset_not_written (o : Operand) : (State.reset.operand o).written = false := by
  cases o <;> rfl

theorem State.resetByPlatform_not_written (s : State) (o : Operand) :
    (s.resetByPlatform.operand o).written = false := by
  cases o <;> rfl

/-- Settles O41: the reset values, STATUS among them. -/
theorem resetLeavesNoInstance : Obligations.ResetLeavesNoInstance :=
  ⟨rfl, rfl, rfl, rfl, State.statusWord_eq_zero rfl rfl, State.reset_not_written⟩

/-- Settles O42: the step is the platform's reset from the state in which the event has been taken off the script. -/
theorem platformResetEndsTheInstance : Obligations.PlatformResetEndsTheInstance := fun s rest h =>
  ⟨(s.taken rest).resetByPlatform, step_cons s _ rest h, rfl, rfl, rfl, rfl, State.statusWord_eq_zero rfl rfl,
    State.resetByPlatform_not_written _, rfl⟩

end Sys2Proof.Machine

namespace Sys2Proof.Machine

/-! # Bytes, words and blocks (00_scope.md R15, 20_memory.md R51) -/

/-- A byte sequence is its bytes in order. -/
theorem map_range_byteAt (b : List Byte) : (List.range b.length).map (byteAt b) = b := by
  refine List.ext_getElem (by simp) fun k _ hk => ?_
  simp [byteAt, hk]

/-- Four bytes weighted by their places never reach 2^32, so `LE32` loses nothing. -/
theorem toNat_le32 (b : List Byte) (k : Nat) : (le32 b k).toNat =
    (byteAt b k).toNat + 2 ^ 8 * (byteAt b (k + 1)).toNat + 2 ^ 16 * (byteAt b (k + 2)).toNat
      + 2 ^ 24 * (byteAt b (k + 3)).toNat := by
  rw [le32, BitVec.toNat_ofNat]
  omega

/-- `ST32` is the inverse of `LE32` (R15). -/
theorem le32_eq_iff (b : List Byte) (k : Nat) (w : Word) :
    le32 b k = w ↔ st32 w = [byteAt b k, byteAt b (k + 1), byteAt b (k + 2), byteAt b (k + 3)] := by
  simp only [← BitVec.toNat_inj, toNat_le32, st32, List.cons.injEq, and_true, BitVec.extractLsb'_toNat,
    Nat.shiftRight_eq_div_pow]
  omega

theorem st32_le32 (b : List Byte) (k : Nat) :
    st32 (le32 b k) = [byteAt b k, byteAt b (k + 1), byteAt b (k + 2), byteAt b (k + 3)] :=
  (le32_eq_iff b k _).mp rfl

theorem storeBlock_loadBlock {b : List Byte} (h : b.length = 16) : storeBlock (loadBlock b) = b := by
  calc storeBlock (loadBlock b) = (List.range 16).map (byteAt b) := by
        simp only [storeBlock, loadBlock, st32_le32]; rfl
    _ = b := by rw [← h, map_range_byteAt]

theorem loadBlock_storeBlock (x : Words4) : loadBlock (storeBlock x) = x := by
  have h0 : le32 (storeBlock x) 0 = x.x0 := (le32_eq_iff _ _ _).mpr rfl
  have h1 : le32 (storeBlock x) 4 = x.x1 := (le32_eq_iff _ _ _).mpr rfl
  have h2 : le32 (storeBlock x) 8 = x.x2 := (le32_eq_iff _ _ _).mpr rfl
  have h3 : le32 (storeBlock x) 12 = x.x3 := (le32_eq_iff _ _ _).mpr rfl
  rw [loadBlock, h0, h1, h2, h3]

/-- Settles O27: a read is byte by byte, and `ST32` and `LE32` undo each other at each of the four words. -/
theorem blocksAreLittleEndian : Obligations.BlocksAreLittleEndian :=
  ⟨fun m base k hk => Memory.byteAt_read m base 16 k hk, toNat_le32, fun _ => rfl, fun _ => storeBlock_loadBlock,
    loadBlock_storeBlock, by decide⟩

/-! # Independence of the blocks of a PCL (20_memory.md R58) -/

section
variable {out rd : Nat → Nat} {p q n : Nat} (hout : ∀ i, out i = p + 16 * i) (hn : 2 ≤ n)
include hout hn

/-- Two streams of different starts that share an address have a block of the one that meets a block of another
index of the other: the first block of the later stream meets one of the earlier stream after its first. -/
theorem clearOfOthers_stream_iff (hrd : ∀ j, rd j = q + 16 * j) :
    ClearOfOthers out rd n ↔ p = q ∨ Apart p (16 * n) q (16 * n) := by
  simp only [ClearOfOthers, hout, hrd]
  constructor
  · intro h
    obtain hlt | heq | hgt := Nat.lt_trichotomy p q
    · by_contra
      have := h (max 1 ((q - p) / 16)) (by omega) 0 (by omega) (by omega)
      omega
    · exact .inl heq
    · by_contra
      have := h 0 (by omega) (max 1 ((p - q) / 16)) (by omega) (by omega)
      omega
  · intro h i hi j hj hij
    omega

/-- A block that every index reads shares no address with any block of the stream, since each block of the stream
meets it as the read of another index. -/
theorem clearOfOthers_constant_iff (hrd : ∀ j, rd j = q) :
    ClearOfOthers out rd n ↔ Apart p (16 * n) q 16 := by
  simp only [ClearOfOthers, hout, hrd]
  constructor
  · intro h
    have hclear : ∀ i < n, Apart (p + 16 * i) 16 q 16 := fun i hi => by
      obtain hzero | hpos := Nat.eq_zero_or_pos i
      · exact h i hi 1 (by omega) (by omega)
      · exact h i hi 0 (by omega) (by omega)
    by_contra
    have := hclear ((q - p) / 16) (by omega)
    omega
  · intro h i hi _ _ _
    omega

end

/-- Settles O22: the input and the advancing auxiliary stream run beside the output stream, the constant auxiliary
block stands still. -/
theorem independenceIsALayoutCondition : Obligations.IndependenceIsALayoutCondition := by
  refine fun s n => ⟨fun hn aux ac => independent_of_le_one s aux ac n hn, fun hn => ?_⟩
  have hin := clearOfOthers_stream_iff (fun _ => rfl) hn (out := s.outAddr) (rd := s.inAddr) fun _ => rfl
  have hadvancing := clearOfOthers_stream_iff (fun _ => rfl) hn (out := s.outAddr) (rd := s.auxAddr false) fun _ => rfl
  have hconstant := clearOfOthers_constant_iff (fun _ => rfl) hn (out := s.outAddr) (rd := s.auxAddr true) fun _ => rfl
  refine ⟨fun ac => ?_, ?_, ?_⟩
  · exact (independent_iff s false ac n).trans ((and_iff_left nofun).trans hin)
  · exact (independent_iff s true false n).trans (and_congr hin ((forall_prop_of_true rfl).trans hadvancing))
  · exact (independent_iff s true true n).trans (and_congr hin ((forall_prop_of_true rfl).trans hconstant))

/-! # What a command stores (20_memory.md R60, R71) -/

/-- Settles O29: of the effects of a command only those of BLK and PCL touch MEM. -/
theorem onlyOutputBytesAreStored : Obligations.OnlyOutputBytesAreStored := by
  intro i s t h a ha
  cases exec_effect h with
  | keyLengthBad hi hbad => rfl
  | keyInstalled hi hready => rfl
  | destroyed => rfl
  | blkDone hready => exact oneBlock_outside s _ _ _ _ _ _ ha
  | pclDone hready => exact pclBlocks_outside _ _ _ s _ ha

/-! # Commands that do not complete (60_exceptions.md R197, R198) -/

/-- Requirements let what follows happen or refuse. -/
theorem require_eq_or_refused (rs : List (Bool × Refusal)) (k : Host.Outcome State Fault Refusal) :
    require rs k = k ∨ ∃ r, require rs k = .refused r := by
  by_cases h : ∀ q ∈ rs, q.1 = true
  · exact .inl (require_of_all rs k h)
  · obtain ⟨q, -, -, hr⟩ := require_of_not_all rs k h
    exact .inr ⟨q.2, hr⟩

theorem keySetup_next_or_refused (dir : Direction) (s : State) :
    (∃ t, keySetup dir s = .next t) ∨ ∃ r, keySetup dir s = .refused r := by
  unfold keySetup
  obtain h | h := require_eq_or_refused [needsOperand s .klen] _
  · rw [h]
    split
    · exact (require_eq_or_refused _ _).imp_left fun h => ⟨_, h⟩
    · exact .inl ⟨_, rfl⟩
  · exact .inr h

/-- No command faults. -/
theorem exec_next_or_refused (i : Instr) (s : State) :
    (∃ t, exec i s = .next t) ∨ ∃ r, exec i s = .refused r := by
  cases i with
  | kseEnc => exact keySetup_next_or_refused .encrypt s
  | kseDec => exact keySetup_next_or_refused .decrypt s
  | kclr => exact .inl ⟨_, rfl⟩
  | blk xa => exact (require_eq_or_refused _ _).imp_left fun h => ⟨_, h⟩
  | pcl xb xa ac => exact (require_eq_or_refused _ _).imp_left fun h => ⟨_, h⟩

/-- A command that answers a next state met its preconditions. -/
theorem completes_of_next {i : Instr} {s t : State} (h : exec i s = .next t) : Completes i s := by
  cases exec_effect h with
  | keyLengthBad hi hbad => obtain rfl | rfl := hi <;> exact .inl hbad
  | keyInstalled hi hready => obtain ⟨rfl, -⟩ | ⟨rfl, -⟩ := hi <;> exact .inr hready
  | destroyed => trivial
  | blkDone hready => exact hready
  | pclDone hready => exact hready

theorem exec_refused_of_not_completes {i : Instr} {s : State} (h : ¬ Completes i s) :
    ∃ r, exec i s = .refused r :=
  (exec_next_or_refused i s).resolve_left fun ⟨_, ht⟩ => h (completes_of_next ht)

/-! # Regions past the end of MEM (20_memory.md R56) -/

section
variable {s : State}

theorem not_completes_keySetup_of_not_fits {i : Instr} (hi : i = .kseEnc ∨ i = .kseDec)
    (hlen : keyLenOk (s.operandNat .klen) = true) (h : ¬ Fits s (s.operandNat .kptr) (s.operandNat .klen)) :
    ¬ Completes i s := by
  have hnot : ¬ (KeyLengthBad s ∨ KeyReady s) := by
    rintro (⟨-, hbad⟩ | ⟨-, -, -, hfit, -⟩)
    · rw [hlen] at hbad
      cases hbad
    · exact h hfit
  obtain rfl | rfl := hi <;> exact hnot

theorem not_completes_blk_of_not_fits {xa : Bool}
    (h : ¬ Fits s (s.operandNat .iptr) 16 ∨ ¬ Fits s (s.operandNat .optr) 16 ∨
      (xa = true ∧ ¬ Fits s (s.operandNat .aptr) 16)) : ¬ Completes (.blk xa) s := by
  rintro ⟨-, ⟨-, hin, -⟩, ⟨-, hout, -⟩, haux⟩
  obtain h | h | ⟨hxa, h⟩ := h
  · exact h hin
  · exact h hout
  · obtain ⟨-, hfit, -⟩ := haux hxa
    exact h hfit

theorem not_completes_pcl_of_not_fits {xb xa ac : Bool} (hpos : 0 < s.blockCount)
    (h : ¬ Fits s (s.operandNat .iptr) (16 * s.blockCount) ∨ ¬ Fits s (s.operandNat .optr) (16 * s.blockCount) ∨
      ((xb || xa) = true ∧ ¬ Fits s (s.operandNat .aptr) (auxSize ac s.blockCount))) :
    ¬ Completes (.pcl xb xa ac) s := by
  rintro ⟨-, -, hregions⟩
  obtain ⟨⟨-, hin, -⟩, ⟨-, hout, -⟩, haux, -⟩ := hregions hpos
  obtain h | h | ⟨hflag, h⟩ := h
  · exact h hin
  · exact h hout
  · obtain ⟨-, hfit, -⟩ := haux hflag
    exact h hfit

end

/-- Settles O31: a region that does not fit is a precondition not met. -/
theorem regionsPastTheEndAreRefused : Obligations.RegionsPastTheEndAreRefused := fun s =>
  ⟨rfl, fun _ hi hlen h => exec_refused_of_not_completes (not_completes_keySetup_of_not_fits hi hlen h),
    fun _ h => exec_refused_of_not_completes (not_completes_blk_of_not_fits h),
    fun _ _ _ hpos h => exec_refused_of_not_completes (not_completes_pcl_of_not_fits hpos h),
    fun _ _ hsize hptr hfit => by omega⟩

/-! # MEM accesses of the host that have an effect (20_memory.md R50, R66) -/

/-- A read of the bytes just written gives them back. -/
theorem Memory.read_write_self (b : List Byte) (m : Memory) (addr : Nat) (hm : m.wf = true) :
    (m.write addr b).read addr b.length = b := by
  calc (m.write addr b).read addr b.length = (List.range b.length).map (byteAt b) :=
        List.map_congr_left fun k hk => readByte_write_inside b m addr k hm (List.mem_range.mp hk)
    _ = b := map_range_byteAt b

section
variable {s : State} {addr : Nat} {rest : List Action}

theorem step_memWrite {bytes : List Byte} (h : s.script = .memWrite addr bytes :: rest)
    (hfit : Fits s addr bytes.length) (hplain : PlainRegion s addr bytes.length) :
    step s = .next ((s.taken rest).withMem (s.mem.write addr bytes)) :=
  (step_cons s _ rest h).trans ((hostMemAccess_eq_next _ addr _ _ _).mpr ⟨hfit, hplain, rfl⟩)

theorem step_memRead {n : Nat} (h : s.script = .memRead addr n :: rest)
    (hfit : Fits s addr n) (hplain : PlainRegion s addr n) :
    step s = .next ((s.taken rest).yielding (.bytes (s.mem.read addr n))) :=
  (step_cons s _ rest h).trans ((hostMemAccess_eq_next _ addr _ _ _).mpr ⟨hfit, hplain, rfl⟩)

end

/-- Settles O39: the write changes MEM alone, so the read after it meets the same conditions. -/
theorem hostWritesAreStored : Obligations.HostWritesAreStored := by
  intro s addr bytes rest h hwf hfit hplain
  refine ⟨_, step_memWrite h hfit hplain, fun k => Memory.readByte_write_inside bytes s.mem addr k hwf,
    fun a ha => Memory.readByte_write_outside bytes s.mem (by omega), fun o => by simp, ⟨rfl, rfl, rfl, rfl⟩, rfl, rfl,
    fun rest' => ?_⟩
  refine (step_memRead rfl ?_ ?_).trans ?_
  · exact hfit
  · exact hplain
  · dsimp only [State.withMem_mem]
    rw [Memory.read_write_self bytes s.mem addr hwf]
    rfl

end Sys2Proof.Machine

namespace Sys2Proof.Machine

/-! # Command words field by field (30_encoding.md R76) -/

/-- The command word of the fields in the picture of R76, its reserved fields 31:12, F3 and 7:5 zero. -/
def commandWord (op : BitVec 4) (d xb xa ac : Bool) : Word :=
  0#20 ++ 0#1 ++ BitVec.ofBool ac ++ BitVec.ofBool xa ++ BitVec.ofBool xb ++ 0#3 ++ BitVec.ofBool d ++ op

/-- The fields 31:12, 7:5 and F3, which are zero in every command (R84, R85). -/
def ReservedFieldsZero (w : Word) : Prop :=
  w.extractLsb' 12 20 = 0#20 ∧ w.extractLsb' 5 3 = 0#3 ∧ w.getLsbD 11 = false

theorem ofBool_getLsbD (w : Word) (i : Nat) : BitVec.ofBool (w.getLsbD i) = w.extractLsb' i 1 := by
  ext j hj
  simp [Nat.lt_one_iff.mp hj]

/-- A word is its fields side by side. -/
theorem append_fields_eq (w : Word) :
    w.extractLsb' 12 20 ++ BitVec.ofBool (w.getLsbD 11) ++ BitVec.ofBool (w.getLsbD 10) ++
      BitVec.ofBool (w.getLsbD 9) ++ BitVec.ofBool (w.getLsbD 8) ++ w.extractLsb' 5 3 ++
      BitVec.ofBool (w.getLsbD 4) ++ w.extractLsb' 0 4 = w := by
  simp only [ofBool_getLsbD, BitVec.extractLsb'_append_extractLsb'_eq_extractLsb']
  exact BitVec.extractLsb'_eq_self

theorem ReservedFieldsZero.commandWord_eq {w : Word} (h : ReservedFieldsZero w) :
    commandWord (w.extractLsb' 0 4) (w.getLsbD 4) (w.getLsbD 8) (w.getLsbD 9) (w.getLsbD 10) = w := by
  obtain ⟨hhigh, hlow, hf3⟩ := h
  have hfields := append_fields_eq w
  rw [hhigh, hlow, hf3] at hfields
  exact hfields

/-! # The decoder, one equation per operation (30_encoding.md R91) -/

theorem decode_of_not_reservedFieldsZero {w : Word} (h : ¬ ReservedFieldsZero w) : decode w = .invalid := by
  refine if_pos ?_
  by_contra hnone
  push Not at hnone
  obtain ⟨hhigh, hlow, hf3⟩ := hnone
  exact h ⟨hhigh, hlow, by simpa using hf3⟩

section
variable {w : Word} (hzero : ReservedFieldsZero w)
include hzero

theorem decode_of_op_one (hop : w.extractLsb' 0 4 = 1#4) :
    decode w = if w.getLsbD 8 = false ∧ w.getLsbD 9 = false ∧ w.getLsbD 10 = false then
      .command (if w.getLsbD 4 = false then .kseEnc else .kseDec) else .invalid := by
  obtain ⟨hhigh, hlow, hf3⟩ := hzero
  simp [decode, hhigh, hlow, hf3, hop, -BitVec.getLsbD_eq_getElem]

theorem decode_of_op_two (hop : w.extractLsb' 0 4 = 2#4) :
    decode w = if w.getLsbD 4 = false ∧ w.getLsbD 8 = false ∧ w.getLsbD 10 = false then
      .command (.blk (w.getLsbD 9)) else .invalid := by
  obtain ⟨hhigh, hlow, hf3⟩ := hzero
  simp [decode, hhigh, hlow, hf3, hop, -BitVec.getLsbD_eq_getElem]

theorem decode_of_op_three (hop : w.extractLsb' 0 4 = 3#4) :
    decode w = if w.getLsbD 4 = false then
      .command (.pcl (w.getLsbD 8) (w.getLsbD 9) (w.getLsbD 10)) else .invalid := by
  obtain ⟨hhigh, hlow, hf3⟩ := hzero
  simp [decode, hhigh, hlow, hf3, hop, -BitVec.getLsbD_eq_getElem]

theorem decode_of_op_four (hop : w.extractLsb' 0 4 = 4#4) :
    decode w = if w.getLsbD 4 = false ∧ w.getLsbD 8 = false ∧ w.getLsbD 9 = false ∧ w.getLsbD 10 = false then
      .command .kclr else .invalid := by
  obtain ⟨hhigh, hlow, hf3⟩ := hzero
  simp [decode, hhigh, hlow, hf3, hop, -BitVec.getLsbD_eq_getElem]

end

theorem decode_of_op_reserved {w : Word} (hop : w.extractLsb' 0 4 = 0#4 ∨ 5#4 ≤ w.extractLsb' 0 4) :
    decode w = .invalid := by
  have hunused : ∀ op : BitVec 4, op = 0#4 ∨ 5#4 ≤ op → op ≠ 1#4 ∧ op ≠ 2#4 ∧ op ≠ 3#4 ∧ op ≠ 4#4 := by decide
  obtain ⟨h1, h2, h3, h4⟩ := hunused _ hop
  simp [decode, h1, h2, h3, h4]

/-- The operations of R76: 1 to 4, and the reserved ones. -/
theorem operation_cases : ∀ op : BitVec 4,
    op = 1#4 ∨ op = 2#4 ∨ op = 3#4 ∨ op = 4#4 ∨ op = 0#4 ∨ 5#4 ≤ op := by
  decide

/-! # Decode and encode (30_encoding.md R79 to R83) -/

theorem encode_kse (d : Bool) :
    encode (if d = false then .kseEnc else .kseDec) = commandWord 1#4 d false false false := by
  cases d <;> rfl

theorem encode_blk (xa : Bool) : encode (.blk xa) = commandWord 2#4 false false xa false := by
  cases xa <;> rfl

theorem encode_pcl (xb xa ac : Bool) : encode (.pcl xb xa ac) = commandWord 3#4 false xb xa ac := by
  cases xb <;> cases xa <;> cases ac <;> rfl

theorem decode_encode (i : Instr) : decode (encode i) = .command i := by
  cases i with
  | kseEnc => exact Laws.RoundTrip.kseEnc.2
  | kseDec => exact Laws.RoundTrip.kseDec.2
  | kclr => exact Laws.RoundTrip.kclr.2
  | blk xa => exact (Laws.RoundTrip.blk xa).2
  | pcl xb xa ac => exact (Laws.RoundTrip.pcl xb xa ac).2

/-- A word that decodes to a command is its word: the fields the command does not name are zero. -/
theorem eq_encode_of_decode {w : Word} {i : Instr} (h : decode w = .command i) : w = encode i := by
  by_cases hzero : ReservedFieldsZero w
  · have hw := hzero.commandWord_eq
    obtain hop | hop | hop | hop | hop := operation_cases (w.extractLsb' 0 4)
    · rw [decode_of_op_one hzero hop] at h
      split at h <;> cases h
      next hflags =>
        obtain ⟨hxb, hxa, hac⟩ := hflags
        rw [hop, hxb, hxa, hac] at hw
        rw [encode_kse, hw]
    · rw [decode_of_op_two hzero hop] at h
      split at h <;> cases h
      next hflags =>
        obtain ⟨hd, hxb, hac⟩ := hflags
        rw [hop, hd, hxb, hac] at hw
        rw [encode_blk, hw]
    · rw [decode_of_op_three hzero hop] at h
      split at h <;> cases h
      next hd =>
        rw [hop, hd] at hw
        rw [encode_pcl, hw]
    · rw [decode_of_op_four hzero hop] at h
      split at h <;> cases h
      next hflags =>
        obtain ⟨hd, hxb, hxa, hac⟩ := hflags
        rw [hop, hd, hxb, hxa, hac] at hw
        exact hw.symm
    · rw [decode_of_op_reserved hop] at h
      cases h
  · rw [decode_of_not_reservedFieldsZero hzero] at h
    cases h

theorem decode_eq_command_iff (w : Word) (i : Instr) : decode w = .command i ↔ w = encode i :=
  ⟨eq_encode_of_decode, fun h => h ▸ decode_encode i⟩

/-- Settles O2: the decoder's equations leave one word for each command. -/
theorem decodeAndEncodeAgree : Obligations.DecodeAndEncodeAgree := decode_eq_command_iff

/-- Settles O1: the thirteen words are the encodings of the commands. -/
theorem commandWordsDecodeAsListed : Obligations.CommandWordsDecodeAsListed :=
  ⟨decode_encode .kseEnc, decode_encode .kseDec, decode_encode .kclr, decode_encode (.blk false),
    decode_encode (.blk true), decode_encode (.pcl false false false), decode_encode (.pcl true false false),
    decode_encode (.pcl false true false), decode_encode (.pcl true true false),
    decode_encode (.pcl false false true), decode_encode (.pcl true false true),
    decode_encode (.pcl false true true), decode_encode (.pcl true true true)⟩

/-! # The opcode map (30_encoding.md R78) -/

/-- A word is what BLK's mask keeps of it and the flag the mask frees. -/
theorem word_eq_masked_blk (w : Word) :
    w = w &&& 0xFFFFFDFF#32 ||| flagBits (w.getLsbD 9) 0x200#32 := by
  calc w = w &&& (0xFFFFFDFF#32 ||| BitVec.twoPow 32 9) := (BitVec.and_allOnes (x := w)).symm
    _ = _ := by rw [BitVec.and_or_distrib_left, BitVec.and_twoPow]; rfl

/-- The same for PCL's mask, which frees three flags. -/
theorem word_eq_masked_pcl (w : Word) :
    w = w &&& 0xFFFFF8FF#32 ||| flagBits (w.getLsbD 8) 0x100#32 ||| flagBits (w.getLsbD 9) 0x200#32 |||
      flagBits (w.getLsbD 10) 0x400#32 := by
  calc w = w &&& (0xFFFFF8FF#32 ||| BitVec.twoPow 32 8 ||| BitVec.twoPow 32 9 ||| BitVec.twoPow 32 10) :=
        (BitVec.and_allOnes (x := w)).symm
    _ = _ := by simp only [BitVec.and_or_distrib_left, BitVec.and_twoPow]; rfl

theorem and_allOnes_eq_iff (w v : Word) : w &&& 0xFFFFFFFF#32 = v ↔ w = v := by
  rw [show w &&& 0xFFFFFFFF#32 = w from BitVec.and_allOnes]

theorem and_mask_blk_iff (w : Word) :
    w &&& 0xFFFFFDFF#32 = 0x00000002#32 ↔ w = encode (.blk (w.getLsbD 9)) := by
  constructor
  · intro h
    conv_lhs => rw [word_eq_masked_blk w, h]
    cases w.getLsbD 9 <;> rfl
  · generalize w.getLsbD 9 = xa
    rintro rfl
    cases xa <;> rfl

theorem and_mask_pcl_iff (w : Word) :
    w &&& 0xFFFFF8FF#32 = 0x00000003#32 ↔
      w = encode (.pcl (w.getLsbD 8) (w.getLsbD 9) (w.getLsbD 10)) := by
  constructor
  · intro h
    conv_lhs => rw [word_eq_masked_pcl w, h]
    cases w.getLsbD 8 <;> cases w.getLsbD 9 <;> cases w.getLsbD 10 <;> rfl
  · generalize w.getLsbD 8 = xb, w.getLsbD 9 = xa, w.getLsbD 10 = ac
    rintro rfl
    cases xb <;> cases xa <;> cases ac <;> rfl

/-- A word selects a row exactly when it is the word of the row's command, the flags read from its free bits. -/
theorem OpcodeRow.selects_iff {row : OpcodeRow} (hrow : row ∈ opcodeRows) (w : Word) :
    row.selects w = true ↔ w = encode (row.command w) := by
  rw [OpcodeRow.selects, beq_iff_eq]
  simp only [opcodeRows, List.mem_cons, List.not_mem_nil, or_false] at hrow
  obtain rfl | rfl | rfl | rfl | rfl := hrow
  · exact and_allOnes_eq_iff w _
  · exact and_allOnes_eq_iff w _
  · exact and_mask_blk_iff w
  · exact and_mask_pcl_iff w
  · exact and_allOnes_eq_iff w _

theorem encode_selects_row (i : Instr) : ∃ row ∈ opcodeRows, row.selects (encode i) = true := by
  rw [← List.any_eq_true]
  cases i with
  | kseEnc => rfl
  | kseDec => rfl
  | kclr => rfl
  | blk xa => cases xa <;> rfl
  | pcl xb xa ac => cases xb <;> cases xa <;> cases ac <;> rfl

/-- The map and the field-by-field decoder agree. -/
theorem decode_eq_tableDecode (w : Word) : decode w = tableDecode w := by
  unfold tableDecode
  split
  next row hfind =>
    have hselects := List.find?_some hfind
    exact (decode_eq_command_iff w _).mpr ((OpcodeRow.selects_iff (List.mem_of_find?_eq_some hfind) w).mp hselects)
  next hfind =>
    cases hdecode : decode w with
    | invalid => rfl
    | command i =>
      obtain ⟨row, hrow, hselects⟩ := encode_selects_row i
      rw [← eq_encode_of_decode hdecode] at hselects
      exact absurd hselects (List.find?_eq_none.mp hfind row hrow)

/-- Settles O3: decoding to a row's command is being its word, and each mask says just that. -/
theorem opcodeMapDecidesEveryWord : Obligations.OpcodeMapDecidesEveryWord := fun w =>
  ⟨(decode_eq_command_iff w _).trans (and_allOnes_eq_iff w _).symm,
    (decode_eq_command_iff w _).trans (and_allOnes_eq_iff w _).symm,
    (decode_eq_command_iff w _).trans (and_mask_blk_iff w).symm,
    (decode_eq_command_iff w _).trans (and_mask_pcl_iff w).symm,
    (decode_eq_command_iff w _).trans (and_allOnes_eq_iff w _).symm,
    decode_eq_tableDecode w⟩

/-! # Reserved words (30_encoding.md R84) -/

theorem issue_of_invalid {w : Word} (h : decode w = .invalid) (s : State) :
    issue w s = .refused (.invalidCommand w) := by
  simp only [issue, h]

/-- Settles O4: with the reserved fields zero, each operation's equation says which flags it admits. -/
theorem reservedWordsAreInvalidAndRefused : Obligations.ReservedWordsAreInvalidAndRefused := by
  refine fun w => ⟨?_, fun hinvalid s rest hscript => (step_wr hscript).trans (issue_of_invalid hinvalid _),
    by decide, by decide⟩
  by_cases hzero : ReservedFieldsZero w
  · have ⟨hhigh, hlow, hf3⟩ := hzero
    obtain hop | hop | hop | hop | hop := operation_cases (w.extractLsb' 0 4)
    · rw [decode_of_op_one hzero hop, hhigh, hlow, hf3, hop]
      grind
    · rw [decode_of_op_two hzero hop, hhigh, hlow, hf3, hop]
      grind
    · rw [decode_of_op_three hzero hop, hhigh, hlow, hf3, hop]
      grind
    · rw [decode_of_op_four hzero hop, hhigh, hlow, hf3, hop]
      grind
    · exact iff_of_true (decode_of_op_reserved hop) (by tauto)
  · refine iff_of_true (decode_of_not_reservedFieldsZero hzero) ?_
    rw [ReservedFieldsZero, Bool.eq_false_iff] at hzero
    tauto

/-! # The word placed as the next action (log entry 9) -/

theorem decodeTableWord_toNat {w : Word} {i : Instr} (h : decode w = .command i) :
    decodeTableWord 32 w.toNat = some i := by
  simp [decodeTableWord, Nat.mod_eq_of_lt w.isLt, w.isLt, h]

theorem withFetchWord_toNat_script (s : State) (w : Word) :
    (s.withFetchWord 32 w.toNat).script = .wr .cmd w :: s.script := by
  simp only [State.withFetchWord, commandScript, Nat.mod_eq_of_lt w.isLt, BitVec.ofNat_toNat, BitVec.setWidth_eq]

/-- Settles O6: the placed word is a write of `encode i` to CMD, which decodes to `i`. -/
theorem placedWordIsTheNextStep : Obligations.PlacedWordIsTheNextStep := fun i s =>
  have hdecode := decode_encode i
  ⟨decodeTableWord_toNat hdecode,
    (step_wr (withFetchWord_toNat_script s (encode i))).trans (issue_of_decode hdecode _)⟩

end Sys2Proof.Machine

namespace Sys2Proof.Machine

/-! # The array of KeyExpand (40_key_schedule.md R104, R107, R113) -/

section
variable (tb : Tables) (key : List Byte)

theorem keyExpand_snd : (keyExpand tb key).2 = roundCount key.length := rfl

theorem length_keyExpand : (keyExpand tb key).1.length = 6 * roundCount key.length :=
  length_expandRounds tb _ _ _ _

/-- The rounds from `r` on, entered with the key state of round `r`, give their subkeys one round after another. -/
theorem getD_expandRounds (n r q : Nat) {j : Nat} (hq : q < n) (hj : j < 6) :
    (expandRounds tb key.length n r (keyStateAt tb key r)).getD (6 * q + j) 0#32 =
      (subKeyList (tb.keyStep key.length (r + q) (keyStateAt tb key (r + q))).2).getD j 0#32 := by
  induction n generalizing r q with
  | zero => omega
  | succ n ih =>
    rw [expandRounds]
    cases q with
    | zero =>
      rw [Nat.mul_zero, Nat.zero_add]
      exact List.getD_append _ _ _ _ hj
    | succ q =>
      have hskip : 6 * (q + 1) + j - 6 = 6 * q + j := by omega
      rw [List.getD_append_right _ _ _ _ (by rw [length_subKeyList]; omega), length_subKeyList, hskip,
        Nat.add_comm q 1, ← Nat.add_assoc]
      exact ih (r + 1) q (by omega)

end

/-- Settles O13: the array has six words a round, whatever the key step computes. -/
theorem keyExpandFillsTheWholeArray : Obligations.KeyExpandFillsTheWholeArray := fun tb key => by
  rw [keyExpand_snd, length_keyExpand]
  exact ⟨fun h => by rw [h]; decide, fun h => by rw [h]; decide, fun h => by rw [h]; decide⟩

/-- Settles O14: the rounds from 0 on are entered with the loaded key. -/
theorem keyExpandFollowsTheRecurrence : Obligations.KeyExpandFollowsTheRecurrence := by
  refine fun tb key r j _ => ⟨keyExpand_snd tb key, fun hr hj => ?_⟩
  have hword := getD_expandRounds tb key (roundCount key.length) 0 r hr hj
  rwa [Nat.zero_add] at hword

/-! # The instance a key setup makes (40_key_schedule.md R100, R115, R118) -/

section
variable (dir : Direction) (s : State)

theorem State.length_keyBytes : s.keyBytes.length = s.operandNat .klen := Memory.length_read _ _ _

/-- NR holds every round count. -/
theorem keyInstalled_nr : (keyInstalled dir s).nr.toNat = roundCount (s.operandNat .klen) := by
  have hle := roundCount_le (s.operandNat .klen)
  simp only [keyInstalled, State.withErr_nr, State.dropTransient_nr, State.install_nr, keyExpand_snd,
    State.length_keyBytes, BitVec.toNat_ofNat]
  omega

/-- RK holds every word of the array. -/
theorem keyInstalled_rkAt {k : Nat} (hk : k < 6 * roundCount (s.operandNat .klen)) :
    (keyInstalled dir s).rkAt k = (keyExpand tables s.keyBytes).1.getD k 0#32 := by
  have hle := roundCount_le (s.operandNat .klen)
  have hlen : k < (keyExpand tables s.keyBytes).1.length := by rwa [length_keyExpand, State.length_keyBytes]
  exact State.install_rkAt s dir _ (keyExpand tables s.keyBytes).2 k hlen (by omega)

/-- The new instance has nothing of the one before it. -/
theorem keyInstalled_of_any_instance (rk : Vector Word 192) (nr : BitVec 6) (old : Direction) (kv : Bool) :
    keyInstalled dir { s with rk := rk, nr := nr, dir := old, keyValid := kv } = keyInstalled dir s := rfl

end

/-! # The outcomes of a key setup (40_key_schedule.md R100, R101) -/

section
variable {dir : Direction} {s : State}

theorem keySetup_of_ready (h : KeyReady s) : keySetup dir s = .next (keyInstalled dir s) :=
  (keySetup_eq_next dir s _).mpr (.inr ⟨h, rfl⟩)

/-- A successful key setup does not look at the instance before it. -/
theorem keySetup_of_ready_of_any_instance (h : KeyReady s) (rk : Vector Word 192) (nr : BitVec 6) (old : Direction)
    (kv : Bool) :
    keySetup dir { s with rk := rk, nr := nr, dir := old, keyValid := kv } = .next (keyInstalled dir s) := by
  have hready : KeyReady { s with rk := rk, nr := nr, dir := old, keyValid := kv } := h
  rw [keySetup_of_ready hready, keyInstalled_of_any_instance]

theorem keySetup_of_keyLengthBad (h : KeyLengthBad s) : keySetup dir s = .next (s.withErr 1#4) :=
  (keySetup_eq_next dir s _).mpr (.inl ⟨h, rfl⟩)

theorem keySetup_refused (hbad : ¬ KeyLengthBad s) (hready : ¬ KeyReady s) : ∃ r, keySetup dir s = .refused r := by
  refine (keySetup_next_or_refused dir s).resolve_left fun ⟨t, ht⟩ => ?_
  obtain ⟨h, -⟩ | ⟨h, -⟩ := (keySetup_eq_next dir s t).mp ht
  · exact hbad h
  · exact hready h

/-- A command that is a key setup has its four outcomes. -/
theorem keySetupSpec_of_exec {i : Instr} (hexec : exec i s = keySetup dir s) : KeySetupSpec i dir s := by
  rw [KeySetupSpec, hexec]
  refine ⟨fun hklen => ?_, keySetup_of_keyLengthBad, fun _ hlen hready => ?_, fun hready => ?_⟩
  · have hnot := ne_true_of_eq_false hklen
    exact keySetup_refused (fun ⟨h, _⟩ => hnot h) (fun ⟨h, _⟩ => hnot h)
  · exact keySetup_refused (fun ⟨_, hbad⟩ => ne_true_of_eq_false hbad hlen) hready
  · have hnext : exec i s = .next (keyInstalled dir s) := hexec.trans (keySetup_of_ready hready)
    exact ⟨_, keySetup_of_ready hready, rfl, rfl, keyInstalled_nr dir s, rfl, fun _ => keyInstalled_rkAt dir s,
      exec_sameOperands hnext, fun _ => rfl, exec_sameOutside hnext⟩

end

/-- Settles O7: KSE.ENC is the key setup with DIR 0. -/
theorem kseEncMakesAnEncryptionInstance : Obligations.KseEncMakesAnEncryptionInstance :=
  ⟨decode_encode .kseEnc, fun _ => keySetupSpec_of_exec rfl⟩

/-- Settles O8: KSE.DEC is the key setup with DIR 1. -/
theorem kseDecMakesADecryptionInstance : Obligations.KseDecMakesADecryptionInstance :=
  ⟨decode_encode .kseDec, fun _ => keySetupSpec_of_exec rfl⟩

/-- Settles O11: NR and RK up to `6 * NR` are a function of the key bytes in either direction. -/
theorem bothDirectionsShareOneSchedule : Obligations.BothDirectionsShareOneSchedule := by
  refine fun s hready => ⟨_, _, keySetup_of_ready (dir := .encrypt) hready, keySetup_of_ready (dir := .decrypt) hready,
    ?_, fun k hk => ?_, rfl, rfl, rfl, rfl⟩
  · rw [← BitVec.toNat_inj, keyInstalled_nr, keyInstalled_nr]
  · rw [keyInstalled_nr] at hk
    rw [keyInstalled_rkAt _ s hk, keyInstalled_rkAt _ s hk]

/-- Settles O12: the old instance decides neither whether a key setup succeeds nor what it leaves. -/
theorem rekeyingLeavesNothingOfTheOldInstance : Obligations.RekeyingLeavesNothingOfTheOldInstance := by
  intro s rk nr dir kv i hi hready
  obtain rfl | rfl := hi
  · exact ⟨_, keySetup_of_ready hready, keySetup_of_ready_of_any_instance hready rk nr dir kv⟩
  · exact ⟨_, keySetup_of_ready hready, keySetup_of_ready_of_any_instance hready rk nr dir kv⟩

/-! # KCLR (40_key_schedule.md R102) -/

/-- The first requirement refuses before any other is looked at. -/
theorem require_of_first_not_met {q : Bool × Refusal} (h : q.1 = false) (rest : List (Bool × Refusal))
    (k : Host.Outcome State Fault Refusal) : require (q :: rest) k = .refused q.2 := by
  simp [require, h]

section
variable {s : State} (h : s.keyValid = false)
include h

theorem exec_blk_of_no_instance (xa : Bool) : exec (.blk xa) s = .refused .noInstance :=
  require_of_first_not_met (q := needsInstance s) h _ _

theorem exec_pcl_of_no_instance (xb xa ac : Bool) : exec (.pcl xb xa ac) s = .refused .noInstance :=
  require_of_first_not_met (q := needsInstance s) h _ _

end

/-- Settles O15: KCLR always completes, and leaves KEY_VALID 0. -/
theorem kclrDestroysTheInstance : Obligations.KclrDestroysTheInstance := by
  refine ⟨decode_encode .kclr, fun s => ?_⟩
  have hnext : exec .kclr s = .next (s.destroy.withErr 0#4) := rfl
  exact ⟨_, hnext, rfl, rfl, rfl, rfl, exec_sameOperands hnext, rfl, exec_sameOutside hnext,
    exec_blk_of_no_instance rfl, exec_pcl_of_no_instance rfl⟩

end Sys2Proof.Machine

namespace Sys2Proof.Machine

/-! # The round trip of the cipher (41_round_engine.md R142) -/

section
variable {tb : Tables} (h : tb.RoundsInvert) (rk : Nat → Word) (n : Nat)
include h

/-- The first round decryption undoes is the last that encryption did. -/
theorem decRounds_encRounds (x : Words4) : decRounds tb rk n (encRounds tb rk n x) = x := by
  obtain ⟨hdec, -⟩ := h
  induction n with
  | zero => rfl
  | succ n ih => rw [encRounds, decRounds, hdec, ih]

/-- The last round that encryption does is the one decryption undid first. -/
theorem encRounds_decRounds (x : Words4) : encRounds tb rk n (decRounds tb rk n x) = x := by
  obtain ⟨-, henc⟩ := h
  induction n generalizing x with
  | zero => rfl
  | succ n ih => rw [decRounds, encRounds, ih, henc]

theorem decBlock_encBlock {b : List Byte} (hb : b.length = 16) : decBlock tb rk n (encBlock tb rk n b) = b := by
  rw [decBlock, encBlock, loadBlock_storeBlock, decRounds_encRounds h, storeBlock_loadBlock hb]

theorem encBlock_decBlock {b : List Byte} (hb : b.length = 16) : encBlock tb rk n (decBlock tb rk n b) = b := by
  rw [encBlock, decBlock, loadBlock_storeBlock, encRounds_decRounds h, storeBlock_loadBlock hb]

end

/-- Settles O24: the rounds undo each other from the inside out, and a block's bytes and its words determine each
other. -/
theorem decryptionUndoesEncryption : Obligations.DecryptionUndoesEncryption := fun _ h rk nr _ hb =>
  ⟨decBlock_encBlock h rk nr hb, encBlock_decBlock h rk nr hb⟩

/-! # The output block of BLK (41_round_engine.md R144) -/

theorem exec_blk_of_ready {xa : Bool} {s : State} (h : BlkReady xa s) : exec (.blk xa) s = .next (blkDone xa s) :=
  (execBlk_eq_next xa s _).mpr ⟨h, rfl⟩

/-- Without XB the input block is transformed as it is. -/
theorem blockResult_without_xb (tb : Tables) (dir : Direction) (rk : Nat → Word) (nr : Nat) (xa : Bool)
    (input aux : List Byte) : blockResult tb dir rk nr false xa input aux =
      if xa then xorBytes (transform tb dir rk nr input) aux else transform tb dir rk nr input := rfl

/-- The bytes at OPTR after BLK, made from what MEM held before it. -/
theorem blkDone_output (xa : Bool) (s : State) (hwf : s.mem.wf = true) {k : Nat} (hk : k < 16) :
    (blkDone xa s).mem.readByte (s.operandNat .optr + k) =
      byteAt (if xa
        then xorBytes (transform tables s.dir s.rkAt s.nr.toNat (s.mem.read (s.operandNat .iptr) 16))
          (s.mem.read (s.operandNat .aptr) 16)
        else transform tables s.dir s.rkAt s.nr.toNat (s.mem.read (s.operandNat .iptr) 16)) k := by
  refine (oneBlock_inside s false xa _ _ _ s.mem hwf k hk).trans ?_
  rw [blockResult_without_xb]
  cases xa with
  | false => rfl
  | true => rfl

/-! # BLK is the PCL of one block (41_round_engine.md R144) -/

theorem require_append (rs rest : List (Bool × Refusal)) (k : Host.Outcome State Fault Refusal) :
    require (rs ++ rest) k = require rs (require rest k) := by
  induction rs with
  | nil => rfl
  | cons q rs ih => rw [List.cons_append, require, require, ih]

/-- A requirement that is met has no effect where it stands. -/
theorem require_of_first_met {q : Bool × Refusal} (h : q.1 = true) (rest : List (Bool × Refusal))
    (k : Host.Outcome State Fault Refusal) : require (q :: rest) k = require rest k := by
  rw [require, if_pos h]

section
variable {s : State} (h : s.blockCount = 1) (xa : Bool)
include h

/-- The regions of a PCL of one block are those of BLK, checked in the same order, and then its independence. -/
theorem pclRegionRequires_of_one_block :
    needsInstance s :: pclRegionRequires false xa false s = blkRequires xa s ++ [needsIndependent s xa false 1] := by
  simp [pclRegionRequires, blkRequires, auxSize, h]

/-- Block 0 of a PCL is at the pointers themselves. -/
theorem pclDone_of_one_block : pclDone false xa false s = blkDone xa s := by
  rw [pclDone, h]
  rfl

/-- NBLK is written and one block is always independent, so the two commands refuse for the same reasons. -/
theorem exec_pcl_of_one_block (hwritten : s.nblk.written = true) :
    exec (.pcl false xa false) s = exec (.blk xa) s := by
  have hblocks : 0 < s.blockCount := by omega
  have hindep : independent s xa false 1 = true := independent_of_le_one s xa false 1 (Nat.le_refl 1)
  calc exec (.pcl false xa false) s
      = require (pclRequires false xa false s) (.next (blkDone xa s)) := by
        rw [← pclDone_of_one_block h]
        rfl
    _ = require [needsInstance s] (require (needsOperand s .nblk :: pclRegionRequires false xa false s)
          (.next (blkDone xa s))) := by
        rw [pclRequires, if_pos hblocks]
        rfl
    _ = require (needsInstance s :: pclRegionRequires false xa false s) (.next (blkDone xa s)) := by
        rw [require_of_first_met (q := needsOperand s .nblk) hwritten]
        rfl
    _ = require (blkRequires xa s) (.next (blkDone xa s)) := by
        rw [pclRegionRequires_of_one_block h, require_append, require_of_first_met hindep, require_nil]

end

/-- Settles O16: BLK writes the result of one block at OPTR; a PCL with NBLK 1 makes the same checks and the same
block. -/
theorem blkTransformsOneBlock : Obligations.BlkTransformsOneBlock := by
  refine ⟨decode_encode (.blk false), decode_encode (.blk true), fun xa s =>
    ⟨fun hwf hready => ?_, ?_, fun hone => ?_⟩⟩
  · have hnext := exec_blk_of_ready hready
    exact ⟨_, hnext, fun k hk => blkDone_output xa s hwf hk, fun a ha => oneBlock_outside s false xa _ _ _ s.mem ha,
      rfl, blkDone_sameInstance xa s, exec_sameOperands hnext, exec_sameOutside hnext⟩
  · exact exec_refused_of_not_completes (i := .blk xa)
  · exact (exec_pcl_of_one_block (congrArg (·.value.toNat) hone) xa (congrArg (·.written) hone)).symm

end Sys2Proof.Machine

namespace Sys2Proof.Machine

/-! # The bytes of one block of a PCL (42_parallel_lanes.md R163) -/

/-- The output block of block `i`, its input and auxiliary block read from `m`. -/
def pclOutput (xb xa ac : Bool) (s : State) (m : Memory) (i : Nat) : List Byte :=
  blockResult tables s.dir s.rkAt s.nr.toNat xb xa (m.read (s.inAddr i) 16)
    (if xb || xa then m.read (s.auxAddr ac i) 16 else [])

/-- Without XB and XA the auxiliary block does not matter (R173). -/
theorem blockResult_aux_congr (tb : Tables) (dir : Direction) (rk : Nat → Word) (nr : Nat) {xb xa : Bool}
    (input : List Byte) {aux aux' : List Byte} (h : (xb || xa) = true → aux = aux') :
    blockResult tb dir rk nr xb xa input aux = blockResult tb dir rk nr xb xa input aux' := by
  cases hflag : xb || xa with
  | true => rw [h hflag]
  | false =>
    obtain ⟨rfl, rfl⟩ := Bool.or_eq_false_iff.mp hflag
    rfl

/-- What one block leaves depends on the subkeys and the direction alone, and on the auxiliary address only with XB or
XA. -/
theorem oneBlock_congr {s t : State} (hsame : SameInstance s t) {xb xa : Bool} {aux aux' : Nat}
    (haux : (xb || xa) = true → aux = aux') (input output : Nat) (m : Memory) :
    oneBlock t xb xa input aux' output m = oneBlock s xb xa input aux output m := by
  obtain ⟨-, hdir, hnr, hrk⟩ := hsame
  have hrkAt : t.rkAt = s.rkAt := by
    funext k
    rw [State.rkAt, State.rkAt, hrk]
  rw [oneBlock, oneBlock, hdir, hnr, hrkAt]
  refine congrArg (m.write output) (blockResult_aux_congr _ _ _ _ _ fun h => ?_)
  rw [haux h]

section
variable (xb xa ac : Bool) (s : State)

theorem pclBlocks_succ (n : Nat) : pclBlocks xb xa ac s (n + 1) =
    (pclBlocks xb xa ac s n).write (s.outAddr n) (pclOutput xb xa ac s (pclBlocks xb xa ac s n) n) := rfl

theorem length_pclOutput (m : Memory) (i : Nat) : (pclOutput xb xa ac s m i).length = 16 :=
  length_blockResult _ _ _ _ _ _ _ _ fun h => by simp [h]

/-- The first `n` blocks change no byte that their output blocks are apart from. -/
theorem read_pclBlocks_of_apart (n : Nat) {base : Nat} (h : ∀ j < n, Apart (s.outAddr j) 16 base 16) :
    (pclBlocks xb xa ac s n).read base 16 = s.mem.read base 16 := by
  induction n with
  | zero => rfl
  | succ n ih =>
    have hlast : Apart (s.outAddr n) 16 base 16 := h n (Nat.lt_succ_self n)
    rw [pclBlocks_succ, Memory.read_write_apart _ _ (by rw [length_pclOutput]; omega)]
    exact ih fun j hj => h j (Nat.lt_succ_of_lt hj)

/-- In an independent command a block still finds its input and auxiliary bytes as they were before the command,
however many blocks up to it have been written (20_memory.md R65). -/
theorem pclOutput_pclBlocks {N : Nat} (hindep : independent s (xb || xa) ac N = true) {n i : Nat} (hn : n ≤ i)
    (hi : i < N) : pclOutput xb xa ac s (pclBlocks xb xa ac s n) i = pclOutput xb xa ac s s.mem i := by
  obtain ⟨hclear, hclearAux⟩ := (independent_iff s _ ac N).mp hindep
  have hin : (pclBlocks xb xa ac s n).read (s.inAddr i) 16 = s.mem.read (s.inAddr i) 16 :=
    read_pclBlocks_of_apart xb xa ac s n fun j hj => hclear j (by omega) i hi (by omega)
  rw [pclOutput, hin]
  refine blockResult_aux_congr _ _ _ _ _ fun hflag => ?_
  rw [if_pos hflag, if_pos hflag]
  exact read_pclBlocks_of_apart xb xa ac s n fun j hj => hclearAux hflag j (by omega) i hi (by omega)

/-- In an independent command the next block is made from MEM as it was before the command. -/
theorem pclBlocks_succ_of_independent {N : Nat} (hindep : independent s (xb || xa) ac N = true) {n : Nat}
    (hn : n < N) : pclBlocks xb xa ac s (n + 1) =
      (pclBlocks xb xa ac s n).write (s.outAddr n) (pclOutput xb xa ac s s.mem n) := by
  rw [pclBlocks_succ, pclOutput_pclBlocks xb xa ac s hindep (Nat.le_refl n) hn]

/-- Each output block stays as its own turn wrote it: the later blocks lie above it. -/
theorem pclBlocks_output {N : Nat} (hindep : independent s (xb || xa) ac N = true) (hwf : s.mem.wf = true) {n : Nat}
    (hn : n ≤ N) {i k : Nat} (hi : i < n) (hk : k < 16) :
    (pclBlocks xb xa ac s n).readByte (s.outAddr i + k) = byteAt (pclOutput xb xa ac s s.mem i) k := by
  induction n with
  | zero => omega
  | succ n ih =>
    rw [pclBlocks_succ_of_independent xb xa ac s hindep hn]
    obtain hlt | rfl := Nat.lt_succ_iff_lt_or_eq.mp hi
    · rw [Memory.readByte_write_outside, ih (by omega) hlt]
      simp only [State.outAddr]
      omega
    · exact Memory.readByte_write_inside _ _ _ _ (pclBlocks_wf xb xa ac s i hwf) (by rwa [length_pclOutput])

end

/-! # What a PCL leaves (42_parallel_lanes.md R163 to R166) -/

section
variable {xb xa ac : Bool} {s : State} (h : PclReady xb xa ac s)
include h

theorem exec_pcl_of_ready : exec (.pcl xb xa ac) s = .next (pclDone xb xa ac s) :=
  (execPcl_eq_next xb xa ac s _).mpr ⟨h, rfl⟩

/-- A command with no blocks is independent too. -/
theorem PclReady.independent : independent s (xb || xa) ac s.blockCount = true := by
  obtain ⟨-, -, hregions⟩ := h
  obtain hzero | hpos := Nat.eq_zero_or_pos s.blockCount
  · exact independent_of_le_one s _ ac _ (by omega)
  · obtain ⟨-, -, -, hindep⟩ := hregions hpos
    exact hindep

end

/-- Settles O17: no block writes what another block reads, so each is made from MEM as it was before the command. -/
theorem pclTransformsEveryBlock : Obligations.PclTransformsEveryBlock := by
  refine fun xb xa ac s => ⟨fun hwf hready => ?_, exec_refused_of_not_completes (i := .pcl xb xa ac)⟩
  have hnext := exec_pcl_of_ready hready
  refine ⟨_, hnext, fun i hi k hk => ?_, fun a ha => pclBlocks_outside xb xa ac s _ ha, rfl,
    pclDone_sameInstance xb xa ac s, exec_sameOperands hnext, exec_sameOutside hnext⟩
  refine (pclBlocks_output xb xa ac s hready.independent hwf (Nat.le_refl _) hi hk).trans ?_
  rw [pclOutput]
  exact congrArg (byteAt · k) (blockResult_aux_congr _ _ _ _ _ fun hflag => if_pos hflag)

/-! # PCL of no blocks (42_parallel_lanes.md R164) -/

theorem pclDone_of_no_blocks (xb xa ac : Bool) {s : State} (h : s.blockCount = 0) :
    pclDone xb xa ac s = s.dropTransient.withErr 0#4 := by
  rw [pclDone, h]
  rfl

theorem exec_pcl_of_no_blocks (xb xa ac : Bool) {s : State} (hvalid : s.keyValid = true)
    (hnblk : s.nblk = { value := 0#32, written := true }) :
    exec (.pcl xb xa ac) s = .next (s.dropTransient.withErr 0#4) := by
  have hzero : s.blockCount = 0 := congrArg (·.value.toNat) hnblk
  rw [exec_pcl_of_ready ⟨hvalid, congrArg (·.written) hnblk, fun hpos => by omega⟩,
    pclDone_of_no_blocks xb xa ac hzero]

/-- Settles O18: with no blocks only the transient state and ERR are written, and MEM is not read. -/
theorem pclOfNoBlocksTouchesNoMemory : Obligations.PclOfNoBlocksTouchesNoMemory := by
  refine fun xb xa ac s hnblk => ⟨fun hvalid => ?_, fun hvalid => exec_pcl_of_no_instance hvalid xb xa ac⟩
  have hnext := exec_pcl_of_no_blocks xb xa ac hvalid hnblk
  exact ⟨_, hnext, rfl, rfl, ⟨rfl, rfl, rfl, rfl⟩, exec_sameOperands hnext,
    fun m => exec_pcl_of_no_blocks xb xa ac (s := { s with mem := m }) hvalid hnblk⟩

/-! # PCL without XB and XA (42_parallel_lanes.md R173) -/

/-- Without XB and XA the blocks depend on MEM, the subkeys, the direction, IPTR and OPTR. -/
theorem pclBlocks_without_xor {s t : State} (hsame : SameInstance s t) (hmem : t.mem = s.mem)
    (hin : t.inAddr = s.inAddr) (hout : t.outAddr = s.outAddr) (ac ac' : Bool) (n : Nat) :
    pclBlocks false false ac' t n = pclBlocks false false ac s n := by
  induction n with
  | zero => exact hmem
  | succ n ih =>
    rw [pclBlocks, pclBlocks, ih, hin, hout]
    exact oneBlock_congr hsame (xb := false) (xa := false) nofun _ _ _

/-- The requirements do not look at AC either. -/
theorem exec_pcl_without_xor (ac : Bool) (s : State) :
    exec (.pcl false false ac) s = exec (.pcl false false false) s := by
  have hblocks := pclBlocks_without_xor (s := s) ⟨rfl, rfl, rfl, rfl⟩ rfl rfl rfl false ac s.blockCount
  have hdone : pclDone false false ac s = pclDone false false false s := by rw [pclDone, hblocks, pclDone]
  calc exec (.pcl false false ac) s = require (pclRequires false false ac s) (.next (pclDone false false ac s)) := rfl
    _ = exec (.pcl false false false) s := by rw [hdone]; rfl

theorem pclReady_without_xor_of_any_aptr {ac : Bool} {s : State} (h : PclReady false false ac s) (aptr : OperandReg) :
    PclReady false false ac { s with aptr := aptr } := by
  obtain ⟨hvalid, hnblk, hregions⟩ := h
  refine ⟨hvalid, hnblk, fun hpos => ?_⟩
  obtain ⟨hin, hout, -, hindep⟩ := hregions hpos
  exact ⟨hin, hout, nofun, hindep⟩

theorem pclDone_without_xor_of_any_aptr (ac : Bool) (s : State) (aptr : OperandReg) :
    pclDone false false ac { s with aptr := aptr } = { pclDone false false ac s with aptr := aptr } := by
  have hblocks := pclBlocks_without_xor (s := s) (t := { s with aptr := aptr }) ⟨rfl, rfl, rfl, rfl⟩ rfl rfl rfl
    ac ac s.blockCount
  calc pclDone false false ac { s with aptr := aptr }
      = ((State.withMem { s with aptr := aptr }
          (pclBlocks false false ac { s with aptr := aptr } s.blockCount)).dropTransient).withErr 0#4 := rfl
    _ = { pclDone false false ac s with aptr := aptr } := by rw [hblocks]; rfl

/-- Settles O19: nothing that is checked or read depends on AC or on APTR. -/
theorem auxiliaryIgnoredWithoutXorFlags : Obligations.AuxiliaryIgnoredWithoutXorFlags := by
  refine fun s => ⟨exec_pcl_without_xor true s, fun ac aptr t hnext => ?_⟩
  obtain ⟨hready, rfl⟩ := (execPcl_eq_next false false ac s t).mp hnext
  rw [exec_pcl_of_ready (pclReady_without_xor_of_any_aptr hready aptr), pclDone_without_xor_of_any_aptr]

/-! # The lanes (42_parallel_lanes.md R167 to R170) -/

theorem deinterleave_interleave (blocks : List Words4) : deinterleave (interleave blocks) = blocks := by
  refine List.ext_getElem (by simp [deinterleave, interleave]) fun l _ hl => ?_
  simp [deinterleave, interleave, laneBlock, hl]

section
variable (tb : Tables) (rk : Nat → Word) (n : Nat) (blocks : List Words4)

/-- A round on the lanes is the round on each block (R169). -/
theorem laneRound_interleave (round : Words4 → SubKeys → Words4) (k : SubKeys) :
    laneRound round k (interleave blocks) = interleave (blocks.map (round · k)) := by
  rw [laneRound, deinterleave_interleave]

theorem laneEncRounds_interleave :
    laneEncRounds tb rk n (interleave blocks) = interleave (blocks.map (encRounds tb rk n)) := by
  induction n with
  | zero => exact congrArg interleave blocks.map_id.symm
  | succ n ih =>
    rw [laneEncRounds, ih, laneRound_interleave, List.map_map]
    rfl

theorem laneDecRounds_interleave :
    laneDecRounds tb rk n (interleave blocks) = interleave (blocks.map (decRounds tb rk n)) := by
  induction n generalizing blocks with
  | zero => exact congrArg interleave blocks.map_id.symm
  | succ n ih =>
    rw [laneDecRounds, laneRound_interleave, ih, List.map_map]
    rfl

/-- Loading, all rounds on the lanes and storing transform each block. -/
theorem map_storeBlock_laneRounds (dir : Direction) (inputs : List (List Byte)) :
    (deinterleave (laneRounds tb dir rk n (interleave (inputs.map loadBlock)))).map storeBlock
      = inputs.map (transform tb dir rk n) := by
  cases dir with
  | encrypt =>
    rw [laneRounds, laneEncRounds_interleave, deinterleave_interleave, List.map_map, List.map_map]
    rfl
  | decrypt =>
    rw [laneRounds, laneDecRounds_interleave, deinterleave_interleave, List.map_map, List.map_map]
    rfl

end

/-- XORing two streams, where the flag asks for it, is XORing them block by block. -/
theorem xorStreams_map (flag : Bool) (blocks auxes : Nat → List Byte) (indices : List Nat) :
    (if flag then List.zipWith xorBytes (indices.map blocks) (indices.map auxes) else indices.map blocks) =
      indices.map fun i => if flag then xorBytes (blocks i) (auxes i) else blocks i := by
  cases flag with
  | false => rfl
  | true => exact List.zipWith_map.trans List.zipWith_self

section
variable (xb xa ac : Bool) (s : State)

/-- A lane group stores the output block of each of its lanes, all made from the memory it starts with. -/
theorem laneGroup_eq_storeBlocks (w first : Nat) (m : Memory) : laneGroup xb xa ac s w first m =
    storeBlocks (s.outAddr first) (((List.range w).map (first + ·)).map (pclOutput xb xa ac s m)) m := by
  rw [laneGroup]
  generalize (List.range w).map (first + ·) = indices
  rw [xorStreams_map, map_storeBlock_laneRounds, List.map_map, xorStreams_map]
  rfl

theorem storeBlocks_append_singleton (output : Nat) (blocks : List (List Byte)) (b : List Byte) (m : Memory) :
    storeBlocks output (blocks ++ [b]) m = (storeBlocks output blocks m).write (output + 16 * blocks.length) b := by
  induction blocks generalizing output m with
  | nil => rfl
  | cons c blocks ih =>
    rw [List.cons_append, storeBlocks, storeBlocks, ih, List.length_cons]
    congr 1
    omega

/-- The lanes' output blocks, stored in order after the blocks before them, are the next blocks of the command. -/
theorem storeBlocks_pclOutput {N : Nat} (hindep : independent s (xb || xa) ac N = true) (first w : Nat)
    (hw : first + w ≤ N) :
    storeBlocks (s.outAddr first) (((List.range w).map (first + ·)).map (pclOutput xb xa ac s s.mem))
      (pclBlocks xb xa ac s first) = pclBlocks xb xa ac s (first + w) := by
  induction w with
  | zero => rfl
  | succ w ih =>
    have haddr : s.outAddr first + 16 * w = s.outAddr (first + w) := by
      simp only [State.outAddr]
      omega
    rw [List.range_succ, List.map_append, List.map_append, List.map_singleton, List.map_singleton,
      storeBlocks_append_singleton, List.length_map, List.length_map, List.length_range, ih (by omega), haddr]
    exact (pclBlocks_succ_of_independent xb xa ac s hindep hw).symm

/-- A lane group reads all its blocks before it stores any, which an independent command cannot tell from taking them
one by one. -/
theorem laneGroup_pclBlocks {N : Nat} (hindep : independent s (xb || xa) ac N = true) (first w : Nat)
    (hw : first + w ≤ N) :
    laneGroup xb xa ac s w first (pclBlocks xb xa ac s first) = pclBlocks xb xa ac s (first + w) := by
  rw [laneGroup_eq_storeBlocks, ← storeBlocks_pclOutput xb xa ac s hindep first w hw]
  refine congrArg (storeBlocks _ · _) (List.map_congr_left fun i hi => ?_)
  obtain ⟨l, hl, rfl⟩ := List.mem_map.mp hi
  have hl : l < w := List.mem_range.mp hl
  exact pclOutput_pclBlocks xb xa ac s hindep (Nat.le_add_right first l) (by omega)

theorem laneGroups_eq_pclBlocks {N : Nat} (hindep : independent s (xb || xa) ac N = true) (w g : Nat)
    (hg : g * w ≤ N) : laneGroups xb xa ac s w g = pclBlocks xb xa ac s (g * w) := by
  induction g with
  | zero => rw [Nat.zero_mul]; rfl
  | succ g ih =>
    rw [Nat.succ_mul] at hg ⊢
    rw [laneGroups, ih (by omega), laneGroup_pclBlocks xb xa ac s hindep (g * w) w hg]

/-- The tail goes on with the command's own blocks. -/
theorem laneTail_pclBlocks (first n : Nat) :
    laneTail xb xa ac s first n (pclBlocks xb xa ac s first) = pclBlocks xb xa ac s (first + n) := by
  induction n with
  | zero => rfl
  | succ n ih => rw [laneTail, ih]; rfl

theorem pclByLanes_eq_pclBlocks {N : Nat} (hindep : independent s (xb || xa) ac N = true) (w : Nat) :
    pclByLanes xb xa ac s w N = pclBlocks xb xa ac s N := by
  rw [pclByLanes, laneGroups_eq_pclBlocks xb xa ac s hindep w _ (Nat.div_mul_le_self N w), laneTail_pclBlocks,
    Nat.mul_comm, Nat.div_add_mod]

end

/-- Settles O20: the lane groups and the tail leave the blocks of the sequential program, group by group. -/
theorem lanesComputeTheSameMemory : Obligations.LanesComputeTheSameMemory := fun xb xa ac s w _ hready =>
  ⟨_, exec_pcl_of_ready hready, (pclByLanes_eq_pclBlocks xb xa ac s hready.independent w).symm⟩

/-! # One PCL and its blocks one by one (42_parallel_lanes.md R170) -/

/-- A block that ends inside MEM starts at an address that a pointer register can hold (00_scope.md R11). -/
theorem toNat_pointerWord {s : State} (hlegal : s.params.Legal) {base i : Nat}
    (hfit : base + 16 * i + 16 ≤ s.memSize) : (pointerWord base i).toNat = base + 16 * i := by
  obtain ⟨-, hwidth, -⟩ := hlegal
  have hsize : s.memSize ≤ 2 ^ 32 := Nat.pow_le_pow_right (by decide) hwidth
  rw [pointerWord, BitVec.toNat_ofNat, Nat.mod_eq_of_lt (by omega)]

section
variable {s t : State} {o : Operand} {size i : Nat} (hlegal : s.params.Legal) (h : PointerReady s o size)
  (hi : 16 * i + 16 ≤ size) (ht : t.operand o = { value := pointerWord (s.operandNat o) i, written := true })
include hlegal h hi ht

/-- The host's pointer to block `i` of a region that is ready. -/
theorem PointerReady.operandNat_block : t.operandNat o = s.operandNat o + 16 * i := by
  obtain ⟨-, hfit, -⟩ := h
  rw [State.operandNat, ht]
  exact toNat_pointerWord hlegal (by omega)

/-- Each block of a region that is ready is ready itself, in a state with the same MEM and the same plain parts. -/
theorem PointerReady.block (hparams : t.params = s.params) (hplatform : t.platform = s.platform) :
    PointerReady t o 16 := by
  have haddr := PointerReady.operandNat_block hlegal h hi ht
  obtain ⟨-, hfit, hplain⟩ := h
  have hsize : t.memSize = s.memSize := by rw [State.memSize, State.memSize, hparams]
  refine ⟨by rw [ht], by omega, fun g hg => ?_⟩
  have hapart := hplain g (hplatform ▸ hg)
  omega

end

/-- The index of the auxiliary block that block `i` uses. -/
def auxIndex (ac : Bool) (i : Nat) : Nat := if ac then 0 else i

theorem State.auxAddr_eq_auxIndex (s : State) (ac : Bool) (i : Nat) :
    s.auxAddr ac i = s.operandNat .aptr + 16 * auxIndex ac i := by
  cases ac <;> rfl

/-- The auxiliary block of each block lies inside the auxiliary region. -/
theorem auxIndex_lt_auxSize (ac : Bool) {i n : Nat} (hi : i < n) : 16 * auxIndex ac i + 16 ≤ auxSize ac n := by
  cases ac with
  | false => change 16 * i + 16 ≤ 16 * n; omega
  | true => exact Nat.le_refl 16

section
variable {xb xa ac : Bool} {s u : State} {n : Nat} (hlegal : s.params.Legal) (hready : PclReady xb xa ac s)
  (hn : n < s.blockCount)
include hlegal hready hn

/-- What the host prepares for block `n` is ready, whatever MEM holds by then. -/
theorem pclReady_prepareBlock (hinstance : SameInstance s u) (houtside : SameOutside s u) :
    PclReady xb xa ac (prepareBlock ac s n u) := by
  obtain ⟨hvalid, -, hregions⟩ := hready
  obtain ⟨hin, hout, haux, -⟩ := hregions (by omega)
  obtain ⟨hparams, hplatform, -, -⟩ := houtside
  obtain ⟨hkeyValid, -⟩ := hinstance
  refine ⟨hkeyValid.trans hvalid, rfl, fun _ =>
    ⟨?_, ?_, fun hflag => ?_, independent_of_le_one _ _ ac 1 (Nat.le_refl 1)⟩⟩
  · exact hin.block hlegal (i := n) (by omega) rfl hparams hplatform
  · exact hout.block hlegal (i := n) (by omega) rfl hparams hplatform
  · have hsize : auxSize ac 1 = 16 := by cases ac <;> rfl
    change PointerReady (prepareBlock ac s n u) .aptr (auxSize ac 1)
    rw [hsize]
    exact (haux hflag).block hlegal (auxIndex_lt_auxSize ac hn) rfl hparams hplatform

/-- The command prepared for block `n` does block `n`. -/
theorem pclDone_prepareBlock_mem (hinstance : SameInstance s u) :
    (pclDone xb xa ac (prepareBlock ac s n u)).mem =
      oneBlock s xb xa (s.inAddr n) (s.auxAddr ac n) (s.outAddr n) u.mem := by
  obtain ⟨-, -, hregions⟩ := hready
  obtain ⟨hin, hout, haux, -⟩ := hregions (by omega)
  have hinAddr : (prepareBlock ac s n u).inAddr 0 = s.inAddr n :=
    hin.operandNat_block (t := prepareBlock ac s n u) hlegal (i := n) (by omega) rfl
  have houtAddr : (prepareBlock ac s n u).outAddr 0 = s.outAddr n :=
    hout.operandNat_block (t := prepareBlock ac s n u) hlegal (i := n) (by omega) rfl
  have hauxAddr (hflag : (xb || xa) = true) : s.auxAddr ac n = (prepareBlock ac s n u).auxAddr ac 0 := by
    rw [State.auxAddr_eq_auxIndex, State.auxAddr_eq_auxIndex,
      (haux hflag).operandNat_block (t := prepareBlock ac s n u) hlegal (auxIndex_lt_auxSize ac hn) rfl]
    cases ac <;> rfl
  have hsame : SameInstance s (prepareBlock ac s n u) := hinstance
  calc (pclDone xb xa ac (prepareBlock ac s n u)).mem
      = oneBlock (prepareBlock ac s n u) xb xa ((prepareBlock ac s n u).inAddr 0)
          ((prepareBlock ac s n u).auxAddr ac 0) ((prepareBlock ac s n u).outAddr 0) u.mem := rfl
    _ = oneBlock s xb xa (s.inAddr n) (s.auxAddr ac n) (s.outAddr n) u.mem := by
        rw [hinAddr, houtAddr, oneBlock_congr hsame hauxAddr]

end

/-- What `n` commands of one block leave: the first `n` blocks of the one command in MEM, and everything that the next
one needs as it was. -/
structure ScalarRunLeaves (xb xa ac : Bool) (s : State) (n : Nat) (u : State) : Prop where
  mem : u.mem = pclBlocks xb xa ac s n
  sameInstance : SameInstance s u
  sameOutside : SameOutside s u
  err : 0 < n → u.err = 0#4

theorem scalarRun_leaves {xb xa ac : Bool} {s : State} (hlegal : s.params.Legal) (hready : PclReady xb xa ac s)
    {n : Nat} (hn : n ≤ s.blockCount) :
    ∃ u, scalarRun xb xa ac s n = .next u ∧ ScalarRunLeaves xb xa ac s n u := by
  induction n with
  | zero => exact ⟨s, rfl, rfl, ⟨rfl, rfl, rfl, rfl⟩, ⟨rfl, rfl, rfl, rfl⟩, nofun⟩
  | succ n ih =>
    obtain ⟨u, hrun, hmem, hinstance, houtside, -⟩ := ih (by omega)
    have hnext := exec_pcl_of_ready (pclReady_prepareBlock hlegal hready hn hinstance houtside)
    refine ⟨pclDone xb xa ac (prepareBlock ac s n u), ?_, ?_, hinstance, houtside, fun _ => rfl⟩
    · rw [scalarRun, hrun]
      exact hnext
    · rw [pclDone_prepareBlock_mem hlegal hready hn hinstance, hmem, pclBlocks]

/-- Settles O21: the commands of one block do the blocks of the one command in the same order. -/
theorem pclEqualsScalarCommands : Obligations.PclEqualsScalarCommands := fun xb xa ac s hlegal hready => by
  obtain ⟨u, hrun, hmem, hinstance, -, herr⟩ := scalarRun_leaves hlegal hready (Nat.le_refl s.blockCount)
  exact ⟨_, u, exec_pcl_of_ready hready, hrun, hmem.symm, hinstance, fun hpos => (herr hpos).symm⟩

/-! # XOR-before and XOR-after (42_parallel_lanes.md R175) -/

/-- Each line of the inverse round undoes one line of the forward round: the rotation, then the sum, then the subkey. -/
theorem tables_roundI_roundF (x : Words4) (k : SubKeys) : tables.roundI (tables.roundF x k) k = x := by
  simp [tables, defaultRoundI, defaultRoundF, ror_rol, rol_ror]

/-- The forward round puts on again what the inverse round took off, since it reads the words it gave. -/
theorem tables_roundF_roundI (y : Words4) (k : SubKeys) : tables.roundF (tables.roundI y k) k = y := by
  simp [tables, defaultRoundI, defaultRoundF, ror_rol, rol_ror]

/-- P2 of 41_round_engine.md R141 for the default TABLES (PRESUMED, log entry 6). -/
theorem tables_roundsInvert : tables.RoundsInvert := ⟨tables_roundI_roundF, tables_roundF_roundI⟩

/-- XORing with the same bytes twice changes nothing (00_scope.md R15). -/
theorem xorBytes_xorBytes {b a : List Byte} (h : b.length ≤ a.length) : xorBytes (xorBytes b a) a = b := by
  refine List.ext_getElem (by simpa using h) fun k _ _ => ?_
  simp [xorBytes]

/-- Settles O23: the two XORs with the same block meet, and between them decryption undoes encryption. -/
theorem xorBeforeAndAfterUndoEachOther : Obligations.XorBeforeAndAfterUndoEachOther := by
  intro rk nr b a hb ha
  constructor
  · calc blockResult tables .decrypt rk nr false true (blockResult tables .encrypt rk nr true false b a) a
        = xorBytes (decBlock tables rk nr (encBlock tables rk nr (xorBytes b a))) a := rfl
      _ = xorBytes (xorBytes b a) a := by
          rw [decBlock_encBlock tables_roundsInvert rk nr (by rw [length_xorBytes, hb, ha, Nat.min_self])]
      _ = b := xorBytes_xorBytes (by omega)
  · have hlen : (encBlock tables rk nr b).length = 16 := length_transform tables .encrypt rk nr b
    calc blockResult tables .decrypt rk nr true false (blockResult tables .encrypt rk nr false true b a) a
        = decBlock tables rk nr (xorBytes (xorBytes (encBlock tables rk nr b) a) a) := rfl
      _ = decBlock tables rk nr (encBlock tables rk nr b) := by rw [xorBytes_xorBytes (by omega)]
      _ = b := decBlock_encBlock tables_roundsInvert rk nr hb

end Sys2Proof.Machine

namespace Sys2Proof.Machine

/-! # The checks of a key setup, one after another (60_exceptions.md R191, R192, R195) -/

theorem exec_eq_keySetup {i : Instr} {dir : Direction}
    (hi : (i = .kseEnc ∧ dir = .encrypt) ∨ (i = .kseDec ∧ dir = .decrypt)) (s : State) :
    exec i s = keySetup dir s := by
  obtain ⟨rfl, rfl⟩ | ⟨rfl, rfl⟩ := hi
  · rfl
  · rfl

section
variable {dir : Direction} {s : State}

/-- KLEN is looked at before anything else. -/
theorem keySetup_of_klen_not_written (h : s.klen.written = false) :
    keySetup dir s = .refused (.operandNotWritten .klen) :=
  require_of_first_not_met (q := needsOperand s .klen) h _ _

/-- Past KLEN and the length gate there is KPTR, the fit of the key region and its being plain memory. -/
theorem keySetup_of_keyLenOk (hklen : s.klen.written = true) (hlen : keyLenOk (s.operandNat .klen) = true) :
    keySetup dir s =
      require [needsOperand s .kptr, needsFit s (s.operandNat .kptr) (s.operandNat .klen),
        needsPlain s (s.operandNat .kptr) (s.operandNat .klen)] (.next (keyInstalled dir s)) := by
  rw [keySetup, require_of_first_met (q := needsOperand s .klen) hklen, require_nil, if_pos hlen]

theorem keySetup_of_kptr_not_written (hklen : s.klen.written = true) (hlen : keyLenOk (s.operandNat .klen) = true)
    (h : s.kptr.written = false) : keySetup dir s = .refused (.operandNotWritten .kptr) :=
  (keySetup_of_keyLenOk hklen hlen).trans (require_of_first_not_met (q := needsOperand s .kptr) h _ _)

theorem keySetup_of_not_fits (hklen : s.klen.written = true) (hlen : keyLenOk (s.operandNat .klen) = true)
    (hkptr : s.kptr.written = true) (h : ¬ Fits s (s.operandNat .kptr) (s.operandNat .klen)) :
    keySetup dir s = .refused (.regionOutsideMem (s.operandNat .kptr) (s.operandNat .klen)) := by
  rw [keySetup_of_keyLenOk hklen hlen, require_of_first_met (q := needsOperand s .kptr) hkptr]
  exact require_of_first_not_met (q := needsFit s _ _) (decide_eq_false h) _ _

/-- The length gate lets no other value of KLEN pass (40_key_schedule.md R103). -/
theorem keyLengthBad_of_ne (hklen : s.klen.written = true) (h16 : s.klen.value ≠ 16#32) (h24 : s.klen.value ≠ 24#32)
    (h32 : s.klen.value ≠ 32#32) : KeyLengthBad s := by
  refine ⟨hklen, Bool.eq_false_iff.mpr fun hok => ?_⟩
  obtain h | h | h := (keyLenOk_iff _).mp hok
  · exact h16 (BitVec.eq_of_toNat_eq h)
  · exact h24 (BitVec.eq_of_toNat_eq h)
  · exact h32 (BitVec.eq_of_toNat_eq h)

end

/-- Settles O9: any other length is a bad one, in both directions. -/
theorem badKeyLengthSetsErrOnly : Obligations.BadKeyLengthSetsErrOnly := fun _ hklen h16 h24 h32 =>
  have hbad := keyLengthBad_of_ne hklen h16 h24 h32
  ⟨keySetup_of_keyLengthBad hbad, keySetup_of_keyLengthBad hbad⟩

/-- Settles O10: an Invalid word reaches no command, and each check of a key setup is made only past those before it. -/
theorem keySetupChecksInOrder : Obligations.KeySetupChecksInOrder := by
  refine ⟨fun s w rest hscript hinvalid => (step_wr hscript).trans (issue_of_invalid hinvalid _),
    fun i dir hi s => ?_⟩
  rw [exec_eq_keySetup hi s]
  exact ⟨keySetup_of_klen_not_written, keySetup_of_keyLengthBad, keySetup_of_kptr_not_written, keySetup_of_not_fits,
    fun hready => ⟨_, keySetup_of_ready hready, rfl, rfl, rfl, fun _ => keyInstalled_rkAt dir s⟩⟩

/-! # Commands that complete (60_exceptions.md R190, R197, R198) -/

theorem keySetup_completes (dir : Direction) {s : State} (h : KeyLengthBad s ∨ KeyReady s) :
    ∃ t, keySetup dir s = .next t := by
  obtain hbad | hready := h
  · exact ⟨_, keySetup_of_keyLengthBad hbad⟩
  · exact ⟨_, keySetup_of_ready hready⟩

/-- With its preconditions met a command answers a next state. -/
theorem exec_next_of_completes {i : Instr} {s : State} (h : Completes i s) : ∃ t, exec i s = .next t := by
  cases i with
  | kseEnc => exact keySetup_completes .encrypt h
  | kseDec => exact keySetup_completes .decrypt h
  | kclr => exact ⟨_, rfl⟩
  | blk xa => exact ⟨_, exec_blk_of_ready h⟩
  | pcl xb xa ac => exact ⟨_, exec_pcl_of_ready h⟩

/-- Settles O32: the preconditions are enough to complete, and a command that lacks one is refused. -/
theorem commandsCompleteOrAreRefused : Obligations.CommandsCompleteOrAreRefused := fun _ _ =>
  ⟨exec_next_of_completes, exec_refused_of_not_completes⟩

end Sys2Proof.Machine

namespace Sys2Proof.Machine

/-! # The default round functions (41_round_engine.md R139) -/

/-- Settles O25: in each direction every rotation, sum and subkey of a round is undone line by line. -/
theorem defaultRoundsInvertEachOther : Obligations.DefaultRoundsInvertEachOther := tables_roundsInvert

end Sys2Proof.Machine
